-- ==== Sys2Proof/Word.lean ====
section
/-! DEFINITION. The widths of the spec (00_scope.md R9, R10): bytes, 32-bit and 64-bit words, and the fixed-length
byte sequences a block, a key, a schedule word and a round-key file are. -/

namespace Sys2Proof

/-- `u8` (R9). -/
abbrev Byte := BitVec 8

/-- `u32`: a register word, a command word, the accumulator (R9). -/
abbrev Word := BitVec 32

/-- `u64`: LEN and OFF (R9, 10_state.md R29, R32). -/
abbrev DWord := BitVec 64

/-- `Bytes(n)`: n bytes indexed from 0 (R10). -/
abbrev Bytes (n : Nat) := Vector Byte n

/-- A block, a counter block or a round key: `Bytes(16)` (R10). -/
abbrev Block := Bytes 16

/-- The 32-byte key (10_state.md R24). -/
abbrev Key := Bytes 32

/-- A 4-byte AES word of the schedule (40_key_schedule.md R102). -/
abbrev SWord := Bytes 4

/-- The round-key file: 15 round keys (10_state.md R30). -/
abbrev RoundKeys := Vector Block 15

/-- `n` bytes 0x00. -/
def zeroBytes (n : Nat) : Bytes n := Vector.ofFn fun _ => 0#8

/-- 15 x 16 bytes 0x00. -/
def zeroRoundKeys : RoundKeys := Vector.ofFn fun _ => zeroBytes 16

/-- Bytewise exclusive or. -/
def xorBytes {n : Nat} (a b : Bytes n) : Bytes n := Vector.ofFn fun i => a[i] ^^^ b[i]

end Sys2Proof
end

