-- ==== Sys2Proof/Config.lean ====
section
/-! DEFINITION. What the spec leaves to the implementation (00_scope.md R8, 92_eei_decisions.md D2, D10, D17, D21) and
the model's free values. `Params` is the argument the model takes for the parameters that have a default instance;
the default instance itself is Machine/Params.lean. -/

namespace Sys2Proof

/-- The four parameters of R8 that enter rules. A claim about a counter or checksum value names the instance it
assumes; a claim that holds for every instance is stated for every `P : Params`. -/
structure Params where
  /-- CTR_INIT: the first counter block of a pass, a function of the schedule alone (42_stream_driver.md R175). -/
  ctrInit : RoundKeys → Block
  /-- CSUM_INIT: the accumulator after `reset()` (43_checksum.md R200). -/
  csumInit : Word
  /-- CSUM_STEP: `absorb(byte)` (43_checksum.md R201). -/
  csumStep : Word → Byte → Word
  /-- CSUM_FINAL: `finalize()` (43_checksum.md R202). -/
  csumFinal : Word → Word

/-- LATENCY(op), at least one cycle, a function of the opcode alone (R8; 70_reset_and_hazards.md R292). No rule and no
definition of the model reads it: the model has no time (log 16). -/
opaque Config.latency : BitVec 8 → ℕ+

/-- BASE, the window's place in a host address map (92_eei_decisions.md D2). It enters no rule and no definition of
the model (log 16). -/
opaque Config.base : Nat

/-- FREE VALUE. The unit length 0..16 that STREAM_BLOCK works with when OFF > LEN, as a function of LEN and OFF. The
spec takes LEN - OFF only when OFF < LEN (44_control.md R232) and states no length otherwise. DESIGN CHOICE, safe,
log 9. -/
opaque Config.strayUnitLen : DWord → DWord → Fin 17

/-- FREE VALUE. The OFF that STREAM_BLOCK leaves when OFF > LEN and OFF + n does not fit 64 bits, as a function of OFF
and n. DESIGN CHOICE, safe, log 10. -/
opaque Config.strayOff : DWord → Nat → DWord

end Sys2Proof
end

