-- ==== Sys2Proof/Syntax.lean ====
section
/-! DEFINITION. The eleven commands (30_encoding.md R85), the port's registers (20_memory.md R62) and the host's
statements (30_encoding.md R89, R90). -/

namespace Sys2Proof

/-- The direction of a pass: D = 0 encrypt, D = 1 decrypt (30_encoding.md R83). -/
inductive Direction where
  | encrypt
  | decrypt
deriving DecidableEq, Repr

/-- One constructor per row of the opcode map (R85). -/
inductive Instr where
  | nop
  | keyExpand
  | blockEnc
  | blockDec
  | streamStart (d : Direction)
  | streamBlock
  | streamAbort
  | csumReset
  | csumAbsorb (imm8 : Byte)
  | zeroize
  | errClear
deriving DecidableEq, Repr

/-- A slot of the register port (R62). -/
inductive Reg where
  | cmd
  | status
  | key (k : Fin 8)
  | din (k : Fin 4)
  | dout (k : Fin 4)
  | ctr (k : Fin 4)
  | csum
  | lenLo
  | lenHi
  | offLo
  | offHi
  | reserved (k : Fin 5)
deriving DecidableEq, Repr

/-- One statement of the host. `read` and `write` are one port access, with its byte offset and its size in bytes as
a host bus would give them (R61 admits size 4 at the aligned offsets 0x00 to 0x7C); `wait` is the polling loop of
R90; `assertReset` asserts and releases the reset input (70_reset_and_hazards.md R270). -/
inductive HostStmt where
  | read (off size : Nat)
  | write (off size : Nat) (v : Word)
  | wait
  | assertReset
deriving DecidableEq, Repr

/-- The two agents (00_scope.md R15). -/
inductive Agent where
  | host
  | core
deriving DecidableEq, Repr

/-- A register value the host has read: `name <- RegRead(off)` (R89). -/
structure Reading where
  off : Nat
  value : Word
deriving DecidableEq, Repr

end Sys2Proof
end

