-- ==== Sys2Proof/WellFormed.lean ====
section
/-! DEFINITION. What is well formed. The operand types of `Instr` are exactly as wide as the fields of 30_encoding.md
R83 and R84, so every term of `Instr` is well formed; what can be ill formed is a command WORD (R82) and a host
ACCESS (20_memory.md R61). -/

namespace Sys2Proof

/-- Bits [31:24] and [15:9] are 0 in every command (R82). -/
def reservedBitsClear (v : Word) : Bool :=
  v.extractLsb' 24 8 == 0#8 && v.extractLsb' 9 7 == 0#7

/-- The opcode is one of 0x00 to 0x0A (R81). -/
def opcodeDefined (v : Word) : Bool := decide (v.extractLsb' 0 8 ≤ 0x0A#8)

/-- Bit 8 is 0 except in STREAM_START (R82). -/
def directionBitAllowed (v : Word) : Bool :=
  v.extractLsb' 8 1 == 0#1 || v.extractLsb' 0 8 == 0x04#8

/-- Bits [23:16] are 0 except in CSUM_ABSORB (R82). -/
def immediateAllowed (v : Word) : Bool :=
  v.extractLsb' 16 8 == 0#8 || v.extractLsb' 0 8 == 0x08#8

/-- A legal command word, by the four conditions of R81 and R82. -/
def legalWord (v : Word) : Bool :=
  reservedBitsClear v && opcodeDefined v && directionBitAllowed v && immediateAllowed v

/-- An access the port can express: one 32-bit word at a word address of the window (R60, R61). -/
def portAccess (off size : Nat) : Bool :=
  decide (size = 4) && decide (off % 4 = 0) && decide (off ≤ 0x7C)

/-- A host statement whose access, if it makes one, the port can express. -/
def HostStmt.wellFormed : HostStmt → Bool
  | .read off size => portAccess off size
  | .write off size _ => portAccess off size
  | .wait => true
  | .assertReset => true

end Sys2Proof
end

