-- ==== Sys2Proof/Decode.lean ====
section
/-! DEFINITION. The decoder (30_encoding.md R86), the encoder (R85, R89), the opcode map's match and mask rows (R85),
and `decodeTableWord`. -/

namespace Sys2Proof

/-- Why a word is Illegal. The spec has one outcome, Illegal (R86); the four names say which line of R86 returns it
(log 19). -/
inductive IllegalWord where
  /-- A bit of [31:24] or [15:9] is 1. -/
  | reservedBits
  /-- A bit of [23:16] is 1 outside CSUM_ABSORB. -/
  | strayImmediate
  /-- Bit 8 is 1 outside STREAM_START. -/
  | strayDirection
  /-- OPCODE is 0x0B to 0xFF. -/
  | reservedOpcode
deriving DecidableEq, Repr

/-- D = bit 8 (R83). -/
def directionOf (v : Word) : Direction := if v.getLsbD 8 then .decrypt else .encrypt

/-- The commands that have no operand field, by OPCODE (R85). -/
def plainCommand (op : Byte) : Except IllegalWord Instr :=
  if op = 0x00 then .ok .nop
  else if op = 0x01 then .ok .keyExpand
  else if op = 0x02 then .ok .blockEnc
  else if op = 0x03 then .ok .blockDec
  else if op = 0x05 then .ok .streamBlock
  else if op = 0x06 then .ok .streamAbort
  else if op = 0x07 then .ok .csumReset
  else if op = 0x09 then .ok .zeroize
  else if op = 0x0A then .ok .errClear
  else .error .reservedOpcode

/-- `decode` of R86, total on every 32-bit word, its tests in the order R86 makes them. -/
def decode (v : Word) : Except IllegalWord Instr :=
  let op := v.extractLsb' 0 8
  if v.extractLsb' 24 8 ≠ 0#8 ∨ v.extractLsb' 9 7 ≠ 0#7 then .error .reservedBits
  else if op = 0x04 then
    if v.extractLsb' 16 8 ≠ 0#8 then .error .strayImmediate
    else .ok (.streamStart (directionOf v))
  else if op = 0x08 then
    if v.getLsbD 8 then .error .strayDirection
    else .ok (.csumAbsorb (v.extractLsb' 16 8))
  else if v.extractLsb' 16 8 ≠ 0#8 then .error .strayImmediate
  else if v.getLsbD 8 then .error .strayDirection
  else plainCommand op

/-- The bit of D (R83). -/
def Direction.bit : Direction → BitVec 1
  | .encrypt => 0#1
  | .decrypt => 1#1

/-- The command word of an instruction (R85; the two operand forms as R89 writes them). -/
def encode : Instr → Word
  | .nop => 0x00000000#32
  | .keyExpand => 0x00000001#32
  | .blockEnc => 0x00000002#32
  | .blockDec => 0x00000003#32
  | .streamStart d => 0x00000004#32 ||| (d.bit.zeroExtend 32 <<< 8)
  | .streamBlock => 0x00000005#32
  | .streamAbort => 0x00000006#32
  | .csumReset => 0x00000007#32
  | .csumAbsorb imm8 => 0x00000008#32 ||| (imm8.zeroExtend 32 <<< 16)
  | .zeroize => 0x00000009#32
  | .errClear => 0x0000000A#32

/-- A row of the opcode map: a word `v` encodes the command when `v and mask = match` (R85). -/
structure OpcodeRow where
  mnemonic : String
  pattern : Word
  mask : Word
deriving DecidableEq, Repr

/-- The opcode map (R85). -/
def opcodeMap : List OpcodeRow :=
  [ ⟨"NOP", 0x00000000#32, 0xFFFFFFFF#32⟩,
    ⟨"KEY_EXPAND", 0x00000001#32, 0xFFFFFFFF#32⟩,
    ⟨"BLOCK_ENC", 0x00000002#32, 0xFFFFFFFF#32⟩,
    ⟨"BLOCK_DEC", 0x00000003#32, 0xFFFFFFFF#32⟩,
    ⟨"STREAM_START", 0x00000004#32, 0xFFFFFEFF#32⟩,
    ⟨"STREAM_BLOCK", 0x00000005#32, 0xFFFFFFFF#32⟩,
    ⟨"STREAM_ABORT", 0x00000006#32, 0xFFFFFFFF#32⟩,
    ⟨"CSUM_RESET", 0x00000007#32, 0xFFFFFFFF#32⟩,
    ⟨"CSUM_ABSORB", 0x00000008#32, 0xFF00FFFF#32⟩,
    ⟨"ZEROIZE", 0x00000009#32, 0xFFFFFFFF#32⟩,
    ⟨"ERR_CLEAR", 0x0000000A#32, 0xFFFFFFFF#32⟩ ]

/-- The word matches the row (R85). -/
def OpcodeRow.matchesWord (r : OpcodeRow) (v : Word) : Bool := v &&& r.mask == r.pattern

/-- The mnemonic of an instruction (R85). -/
def Instr.mnemonic : Instr → String
  | .nop => "NOP"
  | .keyExpand => "KEY_EXPAND"
  | .blockEnc => "BLOCK_ENC"
  | .blockDec => "BLOCK_DEC"
  | .streamStart _ => "STREAM_START"
  | .streamBlock => "STREAM_BLOCK"
  | .streamAbort => "STREAM_ABORT"
  | .csumReset => "CSUM_RESET"
  | .csumAbsorb _ => "CSUM_ABSORB"
  | .zeroize => "ZEROIZE"
  | .errClear => "ERR_CLEAR"

/-- The command word that an opcode-table row's bits make: one 32-bit word, bits above `nbits` 0. A command is a word
written to CMD, not bytes of a memory, so there is no byte layout to apply (R80, R88). -/
def tableWord (nbits w : Nat) : Word := BitVec.ofNat 32 (w % 2 ^ nbits)

/-- The instruction the decoder reads from a table row's word; none where the decoder refuses it. Every row has 32
bits (R88), so a longer one is no command. -/
def decodeTableWord (nbits w : Nat) : Option Instr :=
  if nbits ≤ 32 then (decode (tableWord nbits w)).toOption else none

end Sys2Proof
end

