-- ==== Sys2Proof/Machine/Params.lean ====
section
/-! DEFINITION. The default instance of the open parameters (00_scope.md R8; 42_stream_driver.md R175; 43_checksum.md
R200 to R202), which `exec` and `step` run (log 6). -/

namespace Sys2Proof.Machine

/-- `rotl32(x, n)` for 0 < n < 32 (R9). -/
def rotl32 (x : Word) (n : Nat) : Word := (x <<< n) ||| (x >>> (32 - n))

/-- CTR_INIT's default: the all-zero block (R175). -/
def defaultCtrInit (_ : RoundKeys) : Block := zeroBytes 16

/-- CSUM_INIT's default (R200). -/
def defaultCsumInit : Word := 0x00000000#32

/-- CSUM_STEP's default: rotl32(c, 1) + zext_32(b) mod 2^32 (R201). -/
def defaultCsumStep (c : Word) (b : Byte) : Word := rotl32 c 1 + b.zeroExtend 32

/-- CSUM_FINAL's default: the identity (R202). -/
def defaultCsumFinal (c : Word) : Word := c

/-- The default instance (R8). -/
def params : Params where
  ctrInit := defaultCtrInit
  csumInit := defaultCsumInit
  csumStep := defaultCsumStep
  csumFinal := defaultCsumFinal

end Sys2Proof.Machine
end

