-- ==== Sys2Proof/Machine/State.lean ====
section
/-! DEFINITION. The state record (10_state.md R20) with the model's own three fields for the host and the schedule
(log 1), the reasons a step can stop, and the state after reset (R44). -/

namespace Sys2Proof.Machine

/-- The complete state of one AES256_CORE instance (R20, R45), then the host's side as plain data. -/
structure State where
  /-- KEY, the staged key; write-only at the port (R24). -/
  key : Key
  /-- RK, the round-key file; no address (R30). -/
  rk : RoundKeys
  /-- KV: RK holds a schedule (R31). -/
  kv : Bool
  /-- DIN, block or unit input (R25). -/
  din : Block
  /-- DOUT, block or unit output (R26). -/
  dout : Block
  /-- CTR, the counter block (R27). -/
  ctr : Block
  /-- ACC, the checksum accumulator (R37). -/
  acc : Word
  /-- LEN, the total stream length in bytes (R29). -/
  len : DWord
  /-- OFF, the bytes of the stream processed so far (R32). -/
  off : DWord
  /-- ACTIVE: a pass is in progress (R35). -/
  active : Bool
  /-- DONE: the last pass completed (R36). -/
  done : Bool
  /-- DIR, the direction of the current or last pass (R38). -/
  dir : Direction
  /-- ERR, the sticky error code, 4 bits (R39). -/
  err : BitVec 4
  /-- LAST_N, the bytes produced by the last unit, 5 bits (R40). -/
  lastN : BitVec 5
  /-- BUSY: a command is accepted and not yet completed (R34). -/
  busy : Bool
  /-- PEND, the accepted command word (R41). -/
  pend : Word
  /-- The model's own: the host's remaining statements, next first (log 1). -/
  prog : List HostStmt
  /-- The model's own: which agent moves next, while the list lasts (log 1). -/
  sched : List Agent
  /-- The model's own: what the host has read, newest first (70_reset_and_hazards.md R282; log 1). -/
  seen : List Reading
deriving DecidableEq, Repr

/-- Why the machine stops. -/
inductive Fault where
  /-- Raised by the core step when BUSY = 1 and PEND is an Illegal word. Only legal words are accepted
  (70_reset_and_hazards.md R280), so no run from reset reaches such a state and the spec gives it no effect. Safe,
  log 12. -/
  | pendingIllegal
deriving DecidableEq, Repr

/-- Why a step has no meaning. -/
inductive Refusal where
  /-- An instruction that has no meaning yet, by its mnemonic. Raised by no arm of this model. Safe. -/
  | notModelled (mnemonic : String)
  /-- Raised by a host access that is sub-word, misaligned or outside 0x00 to 0x7C: "this spec gives such an access no
  meaning. A model refuses it" (20_memory.md R61). Safe, log 13. -/
  | portAccess
deriving DecidableEq, Repr

/-- Every field of R20 at its value in R44 under the parameters `P`, with no host statement left, nothing scheduled
and nothing read. -/
def State.resetWith (P : Params) : State where
  key := zeroBytes 32
  rk := zeroRoundKeys
  kv := false
  din := zeroBytes 16
  dout := zeroBytes 16
  ctr := zeroBytes 16
  acc := P.csumInit
  len := 0
  off := 0
  active := false
  done := false
  dir := .encrypt
  err := 0
  lastN := 0
  busy := false
  pend := 0x00000000#32
  prog := []
  sched := []
  seen := []

/-- The machine right after reset (R44, R270). -/
def State.reset : State := State.resetWith params

end Sys2Proof.Machine
end

