-- ==== Sys2Proof/Machine/Operands.lean ====
section
/-! DEFINITION. Operand forms: the byte lanes of the multi-word registers (10_state.md R23, 20_memory.md R63, R64), the
halves of the 64-bit registers (R29, R32), and the length of the next unit (42_stream_driver.md R171, R178). -/

namespace Sys2Proof.Machine

/-- `word(X, k) = { X[4k+3], X[4k+2], X[4k+1], X[4k] }` (R63). -/
def laneWord {n : Nat} (x : Bytes (4 * n)) (k : Fin n) : Word :=
  (x[4 * k.val + 3] ++ x[4 * k.val + 2] ++ x[4 * k.val + 1] ++ x[4 * k.val]).cast rfl

/-- `setword(X, k, v)` (R64). -/
def setLaneWord {n : Nat} (x : Bytes (4 * n)) (k : Fin n) (v : Word) : Bytes (4 * n) :=
  (((x.set (4 * k.val) (v.extractLsb' 0 8)).set (4 * k.val + 1) (v.extractLsb' 8 8)).set
    (4 * k.val + 2) (v.extractLsb' 16 8)).set (4 * k.val + 3) (v.extractLsb' 24 8)

/-- The bytes that n register words hold, by R23: byte 4k + b is bits [8b+7:8b] of word k. -/
def unpackWords {n : Nat} (w : Vector Word n) : Bytes (4 * n) :=
  Vector.ofFn fun i => (w[i.val / 4]'(by omega)).extractLsb' (8 * (i.val % 4)) 8

/-- Bits [31:0] of a 64-bit register. -/
def loHalf (x : DWord) : Word := x.extractLsb' 0 32

/-- Bits [63:32] of a 64-bit register. -/
def hiHalf (x : DWord) : Word := x.extractLsb' 32 32

/-- `X[31:0] <- v`. -/
def setLoHalf (x : DWord) (v : Word) : DWord := (hiHalf x ++ v).cast rfl

/-- `X[63:32] <- v`. -/
def setHiHalf (x : DWord) (v : Word) : DWord := (v ++ loHalf x).cast rfl

/-- `n = min(16, LEN - OFF)` (R178), exact while OFF <= LEN. The spec takes LEN - OFF only when OFF < LEN (44_control.md
R232); beyond LEN, which no run reaches, n is a free value (log 9), and at OFF = LEN the formula gives 0 (log 11). -/
def unitLen (len off : DWord) : Nat :=
  if off ≤ len then min 16 (len.toNat - off.toNat) else (Config.strayUnitLen len off).val

/-- `OFF + n`, exact (R178). A sum that does not fit 64 bits, which no run reaches, leaves a free value (log 10). -/
def advanceOff (off : DWord) (n : Nat) : DWord :=
  if off.toNat + n < 2 ^ 64 then BitVec.ofNat 64 (off.toNat + n) else Config.strayOff off n

end Sys2Proof.Machine
end

