-- ==== Sys2Proof/Machine/Flags.lean ====
section
/-! DEFINITION. STATUS and the flags (10_state.md R33 to R40): the word a read returns, and the flag changes of a pass
(R35, R36). The STATUS bits are the only flags (R46). -/

namespace Sys2Proof.Machine

/-- `STATUS = zext_32({ LAST_N[4:0], 0b0000, ERR[3:0], 0b000, DIR, DONE, ACTIVE, KV, BUSY })` (R33). -/
def status (s : State) : Word :=
  (s.lastN ++ 0#4 ++ s.err ++ 0#3 ++ (if s.dir = .decrypt then 1#1 else 0#1) ++ BitVec.ofBool s.done ++
    BitVec.ofBool s.active ++ BitVec.ofBool s.kv ++ BitVec.ofBool s.busy).zeroExtend 32

/-- ACTIVE and DONE as STREAM_START leaves them (42_stream_driver.md R174). -/
def startFlags (s : State) : State :=
  if s.len = 0 then { s with active := false, done := true } else { s with active := true, done := false }

/-- `if OFF = LEN: ACTIVE <- 0; DONE <- 1` (42_stream_driver.md R178, R182). -/
def endOfUnitFlags (s : State) : State :=
  if s.off = s.len then { s with active := false, done := true } else s

end Sys2Proof.Machine
end

