-- ==== Sys2Proof/Machine/Ops.lean ====
section
/-! DEFINITION. The named operations on the state: reporting an error (60_exceptions.md R243, R254) and returning from
one (R255), accepting a command (R240), completing one (70_reset_and_hazards.md R280), the reset input (R270), the
read log. There is no memory (20_memory.md R60). -/

namespace Sys2Proof.Machine

/-- The error codes the core can report (60_exceptions.md R241). -/
inductive ErrCode where
  | noKey
  | state
  | overrun
  | illegal
  | busy
deriving DecidableEq, Repr

/-- The code's value in STATUS.ERR (R241). -/
def errValue : ErrCode → BitVec 4
  | .noKey => 1#4
  | .state => 2#4
  | .overrun => 3#4
  | .illegal => 4#4
  | .busy => 5#4

/-- `raise E_x` (R243): the first error is kept, and nothing else changes. This is the whole of error "entry" (R254). -/
def raiseErr (e : ErrCode) (s : State) : State :=
  if s.err = 0 then { s with err := errValue e } else s

/-- Error "return" (R255, 44_control.md R226): ERR <- 0. There is nothing to restore. -/
def clearErr (s : State) : State := { s with err := 0 }

/-- `accept(v)` (R240): PEND <- v; BUSY <- 1. -/
def acceptCmd (v : Word) (s : State) : State := { s with pend := v, busy := true }

/-- The end of the core step of `i`: BUSY <- 0 (70_reset_and_hazards.md R280). The step of ZEROIZE also ends with PEND at
its reset value, so that the state it leaves equals the state after reset (R272, 10_state.md R44; log 7). -/
def completeCmd (i : Instr) (s : State) : State :=
  { s with busy := false, pend := if i = .zeroize then 0x00000000#32 else s.pend }

/-- Every field of 10_state.md R20 but BUSY and PEND at its value in R44 (44_control.md R224). -/
def clearRecord (P : Params) (s : State) : State :=
  { State.resetWith P with
    busy := s.busy, pend := s.pend, prog := s.prog, sched := s.sched, seen := s.seen }

/-- Asserting and releasing reset (70_reset_and_hazards.md R270): every field of R20, BUSY and PEND included, so a
pending command is discarded. The host's own data is not the core's. -/
def resetInput (P : Params) (s : State) : State :=
  { State.resetWith P with prog := s.prog, sched := s.sched, seen := s.seen }

/-- The host keeps the word it has read (70_reset_and_hazards.md R282). -/
def logRead (off : Nat) (v : Word) (s : State) : State := { s with seen := ⟨off, v⟩ :: s.seen }

end Sys2Proof.Machine
end

