-- ==== Sys2Proof/Machine/Port.lean ====
section
/-! DEFINITION. The register port: the map of offsets (20_memory.md R62), a host read (R63), the acceptance of a command
(60_exceptions.md R240, R242, R244) and a host write (R64, R246). -/

namespace Sys2Proof.Machine

/-- A register's byte offset (R62). -/
def regOffset : Reg → Nat
  | .cmd => 0x00
  | .status => 0x04
  | .key k => 0x08 + 4 * k.val
  | .din k => 0x28 + 4 * k.val
  | .dout k => 0x38 + 4 * k.val
  | .ctr k => 0x48 + 4 * k.val
  | .csum => 0x58
  | .lenLo => 0x5C
  | .lenHi => 0x60
  | .offLo => 0x64
  | .offHi => 0x68
  | .reserved k => 0x6C + 4 * k.val

/-- The 32 slots of the window in address order (R60, R62). -/
def regSlots : List Reg :=
  [.cmd, .status, .key 0, .key 1, .key 2, .key 3, .key 4, .key 5] ++
  [.key 6, .key 7, .din 0, .din 1, .din 2, .din 3, .dout 0, .dout 1] ++
  [.dout 2, .dout 3, .ctr 0, .ctr 1, .ctr 2, .ctr 3, .csum, .lenLo] ++
  [.lenHi, .offLo, .offHi, .reserved 0, .reserved 1, .reserved 2, .reserved 3, .reserved 4]

/-- The register an access reaches; none for an access the port cannot express (R61). -/
def regAt (off size : Nat) : Option Reg :=
  if portAccess off size then regSlots[off / 4]? else none

/-- `RegRead` (R63) under the parameters `P`. It has no side effect: CSUM shows CSUM_FINAL(ACC) and leaves ACC
(43_checksum.md R206). CMD, KEY and the reserved slots read as zero. -/
def regRead (P : Params) (r : Reg) (s : State) : Word :=
  match r with
  | .cmd => 0x00000000#32
  | .status => status s
  | .key _ => 0x00000000#32
  | .din k => laneWord (n := 4) s.din k
  | .dout k => laneWord (n := 4) s.dout k
  | .ctr k => laneWord (n := 4) s.ctr k
  | .csum => P.csumFinal s.acc
  | .lenLo => loHalf s.len
  | .lenHi => hiHalf s.len
  | .offLo => loHalf s.off
  | .offHi => hiHalf s.off
  | .reserved _ => 0x00000000#32

/-- The commands a sticky error does not hold back (60_exceptions.md R244). -/
def passesStickyHold : Instr → Bool
  | .nop => true
  | .keyExpand => false
  | .blockEnc => false
  | .blockDec => false
  | .streamStart _ => false
  | .streamBlock => false
  | .streamAbort => false
  | .csumReset => false
  | .csumAbsorb _ => false
  | .zeroize => true
  | .errClear => true

/-- E_STATE while a pass is open. -/
def needsNoPass (s : State) : Option ErrCode := if s.active then some .state else none

/-- E_STATE while a pass is open, then E_NOKEY without a schedule. -/
def needsNoPassAndKey (s : State) : Option ErrCode :=
  if s.active then some .state else if s.kv then none else some .noKey

/-- E_OVERRUN or E_STATE without an open pass (R249, R250). -/
def needsPass (s : State) : Option ErrCode :=
  if s.active then none else if s.done then some .overrun else some .state

/-- The error a legal command meets in the pass state and the key state, none when it is accepted: the case list of
R240. -/
def commandError (i : Instr) (s : State) : Option ErrCode :=
  match i with
  | .nop => none
  | .keyExpand => needsNoPass s
  | .blockEnc => needsNoPassAndKey s
  | .blockDec => needsNoPassAndKey s
  | .streamStart _ => needsNoPassAndKey s
  | .streamBlock => needsPass s
  | .streamAbort => none
  | .csumReset => needsNoPass s
  | .csumAbsorb _ => needsNoPass s
  | .zeroize => none
  | .errClear => none

/-- A CMD write of a legal word while ERR = 0 (R240). -/
def commandCheck (i : Instr) (v : Word) (s : State) : State :=
  match commandError i s with
  | some e => raiseErr e s
  | none => acceptCmd v s

/-- `CommandWrite(v)` (R240), BUSY = 0: the sticky hold, then Illegal, then the command's own conditions (R242). -/
def commandWrite (v : Word) (s : State) : State :=
  if s.err ≠ 0 then
    match decode v with
    | .ok i => if passesStickyHold i then acceptCmd v s else s
    | .error _ => s
  else
    match decode v with
    | .ok i => commandCheck i v s
    | .error _ => raiseErr .illegal s

/-- A write of LEN_LO or LEN_HI: locked during a pass (10_state.md R29, 60_exceptions.md R249). -/
def lenWrite (len' : DWord) (s : State) : State :=
  if s.active then raiseErr .state s else { s with len := len' }

/-- What a write does while BUSY = 0 (R64). Read-only and reserved slots ignore it. -/
def idleWrite (r : Reg) (v : Word) (s : State) : State :=
  match r with
  | .cmd => commandWrite v s
  | .status => s
  | .key k => { s with key := setLaneWord (n := 8) s.key k v }
  | .din k => { s with din := setLaneWord (n := 4) s.din k v }
  | .dout _ => s
  | .ctr _ => s
  | .csum => s
  | .lenLo => lenWrite (setLoHalf s.len v) s
  | .lenHi => lenWrite (setHiHalf s.len v) s
  | .offLo => s
  | .offHi => s
  | .reserved _ => s

/-- `RegWrite` (R64): while BUSY = 1 every write is ignored and reports E_BUSY (R246). -/
def regWrite (r : Reg) (v : Word) (s : State) : State :=
  if s.busy then raiseErr .busy s else idleWrite r v s

end Sys2Proof.Machine
end

