-- ==== Sys2Proof/Machine/HostProgram.lean ====
section
/-! DEFINITION. The host's statements and pseudo-statements as lists of host statements (30_encoding.md R89, R90) and
the host procedure for one pass (42_stream_driver.md R189). -/

namespace Sys2Proof.Machine

/-- `WR reg, v` (R89). -/
def wr (r : Reg) (v : Word) : HostStmt := .write (regOffset r) 4 v

/-- `RD reg` (R89); the value goes to the read log. -/
def rd (r : Reg) : HostStmt := .read (regOffset r) 4

/-- `CMD <command>` (R89). -/
def cmd (i : Instr) : HostStmt := wr .cmd (encode i)

/-- `DO <command>` (R90). -/
def doCmd (i : Instr) : List HostStmt := [cmd i, .wait]

/-- `LOADKEY` with its writes in the order given: R90 allows the 8 writes "in any order". -/
def loadKeyIn (order : List (Fin 8)) (k : Key) : List HostStmt :=
  order.map fun j => wr (.key j) (laneWord (n := 8) k j)

/-- `LOADKEY` (R90). DESIGN CHOICE, safe, log 27: KEY0 first to KEY7 last, one of the orders R90 allows. -/
def loadKey (k : Key) : List HostStmt := loadKeyIn (List.finRange 8) k

/-- `LOADDIN` (R90). -/
def loadDin (b : Block) : List HostStmt := List.ofFn fun j : Fin 4 => wr (.din j) (laneWord (n := 4) b j)

/-- `READDOUT` (R90), its four reads; the bytes they give the host are `readDoutBytes`. -/
def readDout : List HostStmt := List.ofFn fun j : Fin 4 => rd (.dout j)

/-- The word the host last read at an offset; `seen` is newest first (log 18). -/
def lastRead (off : Nat) : List Reading → Option Word
  | [] => none
  | r :: rest => if r.off = off then some r.value else lastRead off rest

/-- `o[0..15]` of `READDOUT -> o[0..15]`: the words last read at DOUT0 to DOUT3, unpacked by R23 (R90). `none` while one of the four
has never been read. -/
def readDoutBytes (seen : List Reading) : Option Block :=
  (lastRead (regOffset (.dout 0)) seen).bind fun w0 =>
  (lastRead (regOffset (.dout 1)) seen).bind fun w1 =>
  (lastRead (regOffset (.dout 2)) seen).bind fun w2 =>
  (lastRead (regOffset (.dout 3)) seen).map fun w3 => unpackWords #v[w0, w1, w2, w3]

/-- `SETLEN L` (R90). -/
def setLen (len : DWord) : List HostStmt := [wr .lenLo (loHalf len), wr .lenHi (hiHalf len)]

/-- The 16 input bytes of unit `u`, "pad the last unit with anything" (R189). -/
def unitInput (pad : Nat → Byte) (input : List Byte) (u : Nat) : Block :=
  Vector.ofFn fun j => input.getD (16 * u + j.val) (pad (16 * u + j.val))

/-- `ceil(L / 16)` units (R171). -/
def unitCount (l : Nat) : Nat := (l + 15) / 16

/-- One turn of the loop of R189. -/
def unitStatements (pad : Nat → Byte) (input : List Byte) (u : Nat) : List HostStmt :=
  loadDin (unitInput pad input u) ++ doCmd .streamBlock ++ readDout ++ [rd .status]

/-- The host procedure for one pass (R189). -/
def passStatements (pad : Nat → Byte) (d : Direction) (input : List Byte) : List HostStmt :=
  setLen (BitVec.ofNat 64 input.length) ++ doCmd (.streamStart d) ++
    (List.range (unitCount input.length)).flatMap (unitStatements pad input) ++ [rd .csum]

/-- The boot sequence up to a valid schedule (70_reset_and_hazards.md R274, steps 1 to 3). -/
def bootStatements (k : Key) : List HostStmt :=
  [.assertReset] ++ loadKey k ++ doCmd .keyExpand ++ [rd .status]

end Sys2Proof.Machine
end

