-- ==== Sys2Proof/Machine/Agents.lean ====
section
/-! DEFINITION. The two agents' moves: the core step (70_reset_and_hazards.md R280, R281), the host's next statement
(20_memory.md R63, R64; 30_encoding.md R89, R90), and which of them moves (R70; logs 1, 3, 5). The moves
take what R8 leaves open as arguments: the parameters `P` and `run`, what the core does for a command. -/

namespace Sys2Proof.Machine

/-- What the core does for a command. -/
abbrev Run := Instr → State → Host.Outcome State Fault Refusal

/-- The core step's end: the completion of `i`, in the same step as its effect (R280, R281). -/
def completeOutcome (i : Instr) : Host.Outcome State Fault Refusal → Host.Outcome State Fault Refusal
  | .next t => .next (completeCmd i t)
  | .fault f => .fault f
  | .refused r => .refused r

/-- `CoreStep` (R280): perform decode(PEND), then BUSY <- 0. -/
def coreStep (run : Run) (s : State) : Host.Outcome State Fault Refusal :=
  match decode s.pend with
  | .ok i => completeOutcome i (run i s)
  | .error _ => .fault .pendingIllegal

/-- The core's turn. Its step is enabled exactly when BUSY = 1 (R280); otherwise the turn passes (log 5). -/
def coreTurn (run : Run) (s : State) : Host.Outcome State Fault Refusal :=
  if s.busy then coreStep run s else .next s

/-- One host statement, `s` being the state with that statement taken from `prog`. WAIT reads STATUS and stays the
host's next statement while BUSY = 1 (R90). An access the port cannot express is refused (R61). -/
def hostAct (P : Params) (st : HostStmt) (s : State) : Host.Outcome State Fault Refusal :=
  match st with
  | .read off size =>
    match regAt off size with
    | some r => .next (logRead off (regRead P r s) s)
    | none => .refused .portAccess
  | .write off size v =>
    match regAt off size with
    | some r => .next (regWrite r v s)
    | none => .refused .portAccess
  | .wait =>
    let t := logRead 0x04 (regRead P .status s) s
    .next (if s.busy then { t with prog := .wait :: t.prog } else t)
  | .assertReset => .next (resetInput P s)

/-- The host's turn; a host with nothing left to do does nothing (70_reset_and_hazards.md R282; logs 4, 5). -/
def hostTurn (P : Params) (s : State) : Host.Outcome State Fault Refusal :=
  match s.prog with
  | [] => .next s
  | st :: rest => hostAct P st { s with prog := rest }

/-- The agent that moves next: the schedule's, and once the schedule is used up the core while it has a command to
perform, else the host (log 3). So an enabled core step is always taken in the end (R280). -/
def mover (s : State) : Agent :=
  match s.sched with
  | a :: _ => a
  | [] => if s.busy then .core else .host

/-- The state with the turn that is being taken removed from the schedule. -/
def takeTurn (s : State) : State := { s with sched := s.sched.tail }

/-- The next move. -/
def move (P : Params) (run : Run) (s : State) : Host.Outcome State Fault Refusal :=
  match mover s with
  | .core => coreTurn run (takeTurn s)
  | .host => hostTurn P (takeTurn s)

end Sys2Proof.Machine
end

