-- ==== Sys2Proof/Machine/Gf.lean ====
section
/-! DEFINITION. GF(2^8) with m(x) = x^8 + x^4 + x^3 + x + 1 (00_scope.md R12). -/

namespace Sys2Proof.Machine

/-- `xtime(a) = ((a << 1) xor (a[7] ? 0x11B : 0))[7:0]` (R12). -/
def xtime (a : Byte) : Byte :=
  ((a.zeroExtend 9 <<< 1) ^^^ (if a.getLsbD 7 then 0x11B#9 else 0x000#9)).extractLsb' 0 8

/-- The sum of `b • x^i` over the `n` low bits i of `a` that are 1, `b` already multiplied by the power reached. -/
def gmulBits : Nat → Byte → Byte → Byte
  | 0, _, _ => 0x00#8
  | n + 1, a, b => (if a.getLsbD 0 then b else 0x00#8) ^^^ gmulBits n (a >>> 1) (xtime b)

/-- `a • b`, multiplication modulo m(x) (R12). -/
def gmul (a b : Byte) : Byte := gmulBits 8 a b

/-- `a^-1` with `0^-1 = 0` (R12), computed as a^254. -/
def ginv (a : Byte) : Byte :=
  let a2 := gmul a a
  let a4 := gmul a2 a2
  let a8 := gmul a4 a4
  let a16 := gmul a8 a8
  let a32 := gmul a16 a16
  let a64 := gmul a32 a32
  let a128 := gmul a64 a64
  gmul a128 (gmul a64 (gmul a32 (gmul a16 (gmul a8 (gmul a4 a2)))))

/-- `rotl8(b, n) = ((b << n) or (b >> (8-n)))[7:0]` (40_key_schedule.md R101). -/
def rotl8 (b : Byte) (n : Nat) : Byte := (b <<< n) ||| (b >>> (8 - n))

end Sys2Proof.Machine
end

