-- ==== Sys2Proof/Machine/KeySchedule.lean ====
section
/-! DEFINITION. The Key Schedule (40_key_schedule.md): the substitution table S, the word recurrence, KeyExpansion and
the meaning of KEY_EXPAND. -/

namespace Sys2Proof.Machine

/-- The table of R101, one line per high nibble. -/
def sboxTable : List Byte :=
  ([0x63, 0x7c, 0x77, 0x7b, 0xf2, 0x6b, 0x6f, 0xc5, 0x30, 0x01, 0x67, 0x2b, 0xfe, 0xd7, 0xab, 0x76] : List Byte) ++
  ([0xca, 0x82, 0xc9, 0x7d, 0xfa, 0x59, 0x47, 0xf0, 0xad, 0xd4, 0xa2, 0xaf, 0x9c, 0xa4, 0x72, 0xc0] : List Byte) ++
  ([0xb7, 0xfd, 0x93, 0x26, 0x36, 0x3f, 0xf7, 0xcc, 0x34, 0xa5, 0xe5, 0xf1, 0x71, 0xd8, 0x31, 0x15] : List Byte) ++
  ([0x04, 0xc7, 0x23, 0xc3, 0x18, 0x96, 0x05, 0x9a, 0x07, 0x12, 0x80, 0xe2, 0xeb, 0x27, 0xb2, 0x75] : List Byte) ++
  ([0x09, 0x83, 0x2c, 0x1a, 0x1b, 0x6e, 0x5a, 0xa0, 0x52, 0x3b, 0xd6, 0xb3, 0x29, 0xe3, 0x2f, 0x84] : List Byte) ++
  ([0x53, 0xd1, 0x00, 0xed, 0x20, 0xfc, 0xb1, 0x5b, 0x6a, 0xcb, 0xbe, 0x39, 0x4a, 0x4c, 0x58, 0xcf] : List Byte) ++
  ([0xd0, 0xef, 0xaa, 0xfb, 0x43, 0x4d, 0x33, 0x85, 0x45, 0xf9, 0x02, 0x7f, 0x50, 0x3c, 0x9f, 0xa8] : List Byte) ++
  ([0x51, 0xa3, 0x40, 0x8f, 0x92, 0x9d, 0x38, 0xf5, 0xbc, 0xb6, 0xda, 0x21, 0x10, 0xff, 0xf3, 0xd2] : List Byte) ++
  ([0xcd, 0x0c, 0x13, 0xec, 0x5f, 0x97, 0x44, 0x17, 0xc4, 0xa7, 0x7e, 0x3d, 0x64, 0x5d, 0x19, 0x73] : List Byte) ++
  ([0x60, 0x81, 0x4f, 0xdc, 0x22, 0x2a, 0x90, 0x88, 0x46, 0xee, 0xb8, 0x14, 0xde, 0x5e, 0x0b, 0xdb] : List Byte) ++
  ([0xe0, 0x32, 0x3a, 0x0a, 0x49, 0x06, 0x24, 0x5c, 0xc2, 0xd3, 0xac, 0x62, 0x91, 0x95, 0xe4, 0x79] : List Byte) ++
  ([0xe7, 0xc8, 0x37, 0x6d, 0x8d, 0xd5, 0x4e, 0xa9, 0x6c, 0x56, 0xf4, 0xea, 0x65, 0x7a, 0xae, 0x08] : List Byte) ++
  ([0xba, 0x78, 0x25, 0x2e, 0x1c, 0xa6, 0xb4, 0xc6, 0xe8, 0xdd, 0x74, 0x1f, 0x4b, 0xbd, 0x8b, 0x8a] : List Byte) ++
  ([0x70, 0x3e, 0xb5, 0x66, 0x48, 0x03, 0xf6, 0x0e, 0x61, 0x35, 0x57, 0xb9, 0x86, 0xc1, 0x1d, 0x9e] : List Byte) ++
  ([0xe1, 0xf8, 0x98, 0x11, 0x69, 0xd9, 0x8e, 0x94, 0x9b, 0x1e, 0x87, 0xe9, 0xce, 0x55, 0x28, 0xdf] : List Byte) ++
  ([0x8c, 0xa1, 0x89, 0x0d, 0xbf, 0xe6, 0x42, 0x68, 0x41, 0x99, 0x2d, 0x0f, 0xb0, 0x54, 0xbb, 0x16] : List Byte)

/-- `S`, "the nonlinear substitution" (R101). -/
def sbox (x : Byte) : Byte := sboxTable.getD x.toNat 0x00#8

/-- The algebraic form of S that R101 gives beside the table. -/
def sboxFormula (x : Byte) : Byte :=
  let b := ginv x
  b ^^^ rotl8 b 1 ^^^ rotl8 b 2 ^^^ rotl8 b 3 ^^^ rotl8 b 4 ^^^ 0x63#8

/-- `RotWord([a0, a1, a2, a3]) = [a1, a2, a3, a0]` (R104). -/
def rotWord (w : SWord) : SWord := #v[w[1], w[2], w[3], w[0]]

/-- `SubWord` (R104). -/
def subWord (w : SWord) : SWord := Vector.ofFn fun k => sbox w[k]

/-- `x^(j-1)` for j >= 1: the first byte of `Rcon[j]` (R103). -/
def rconByte : Nat → Byte
  | 0 => 0x01#8
  | 1 => 0x01#8
  | j + 2 => xtime (rconByte (j + 1))

/-- `Rcon[j] = [x^(j-1), 00, 00, 00]` (R103). -/
def rcon (j : Nat) : SWord := #v[rconByte j, 0x00#8, 0x00#8, 0x00#8]

/-- `temp` of R105 for word `i`, from `w[i-1]`. -/
def scheduleTemp (i : Nat) (prev : SWord) : SWord :=
  if i % 8 = 0 then xorBytes (subWord (rotWord prev)) (rcon (i / 8))
  else if i % 8 = 4 then subWord prev
  else prev

/-- Words `i .. i+n-1` pushed on the words before them, newest first: `w[i] = w[i-8] xor temp` (R105). -/
def extendSchedule : Nat → Nat → List SWord → List SWord
  | 0, _, ws => ws
  | n + 1, i, ws =>
    extendSchedule n (i + 1)
      (xorBytes (ws.getD 7 (zeroBytes 4)) (scheduleTemp i (ws.getD 0 (zeroBytes 4))) :: ws)

/-- `w[i] = KEY[4i .. 4i+3]` for i in 0..7 (R102). -/
def keyWord (key : Key) (i : Fin 8) : SWord := Vector.ofFn fun k => key[4 * i.val + k.val]

/-- `w[0] .. w[59]`, oldest first: the 8 words of the key, then 52 more (R102, R105, R107). -/
def scheduleWords (key : Key) : List SWord :=
  (extendSchedule 52 8 (List.ofFn (keyWord key)).reverse).reverse

/-- `w[i]`. -/
def scheduleWord (key : Key) (i : Nat) : SWord := (scheduleWords key).getD i (zeroBytes 4)

/-- `RK[r] = w[4r] || w[4r+1] || w[4r+2] || w[4r+3]` (R106). -/
def roundKey (key : Key) (r : Nat) : Block :=
  Vector.ofFn fun j => (scheduleWord key (4 * r + j.val / 4))[j.val % 4]

/-- `KeyExpansion(key)` (R100, R106). -/
def keyExpansion (key : Key) : RoundKeys := Vector.ofFn fun r => roundKey key r.val

/-- KEY_EXPAND (R110): RK <- KeyExpansion(KEY); KV <- 1; KEY <- 32 bytes 0x00. -/
def execKeyExpand (s : State) : Host.Outcome State Fault Refusal :=
  .next { s with rk := keyExpansion s.key, kv := true, key := zeroBytes 32 }

end Sys2Proof.Machine
end

