-- ==== Sys2Proof/Machine/BlockTransform.lean ====
section
/-! DEFINITION. The Block Transform (41_block_transform.md): the step functions and their inverses, Cipher, InvCipher
and the meanings of BLOCK_ENC and BLOCK_DEC. Byte r + 4c of a block is row r, column c (R130). -/

namespace Sys2Proof.Machine

/-- The table of R131, one line per high nibble. -/
def invSboxTable : List Byte :=
  ([0x52, 0x09, 0x6a, 0xd5, 0x30, 0x36, 0xa5, 0x38, 0xbf, 0x40, 0xa3, 0x9e, 0x81, 0xf3, 0xd7, 0xfb] : List Byte) ++
  ([0x7c, 0xe3, 0x39, 0x82, 0x9b, 0x2f, 0xff, 0x87, 0x34, 0x8e, 0x43, 0x44, 0xc4, 0xde, 0xe9, 0xcb] : List Byte) ++
  ([0x54, 0x7b, 0x94, 0x32, 0xa6, 0xc2, 0x23, 0x3d, 0xee, 0x4c, 0x95, 0x0b, 0x42, 0xfa, 0xc3, 0x4e] : List Byte) ++
  ([0x08, 0x2e, 0xa1, 0x66, 0x28, 0xd9, 0x24, 0xb2, 0x76, 0x5b, 0xa2, 0x49, 0x6d, 0x8b, 0xd1, 0x25] : List Byte) ++
  ([0x72, 0xf8, 0xf6, 0x64, 0x86, 0x68, 0x98, 0x16, 0xd4, 0xa4, 0x5c, 0xcc, 0x5d, 0x65, 0xb6, 0x92] : List Byte) ++
  ([0x6c, 0x70, 0x48, 0x50, 0xfd, 0xed, 0xb9, 0xda, 0x5e, 0x15, 0x46, 0x57, 0xa7, 0x8d, 0x9d, 0x84] : List Byte) ++
  ([0x90, 0xd8, 0xab, 0x00, 0x8c, 0xbc, 0xd3, 0x0a, 0xf7, 0xe4, 0x58, 0x05, 0xb8, 0xb3, 0x45, 0x06] : List Byte) ++
  ([0xd0, 0x2c, 0x1e, 0x8f, 0xca, 0x3f, 0x0f, 0x02, 0xc1, 0xaf, 0xbd, 0x03, 0x01, 0x13, 0x8a, 0x6b] : List Byte) ++
  ([0x3a, 0x91, 0x11, 0x41, 0x4f, 0x67, 0xdc, 0xea, 0x97, 0xf2, 0xcf, 0xce, 0xf0, 0xb4, 0xe6, 0x73] : List Byte) ++
  ([0x96, 0xac, 0x74, 0x22, 0xe7, 0xad, 0x35, 0x85, 0xe2, 0xf9, 0x37, 0xe8, 0x1c, 0x75, 0xdf, 0x6e] : List Byte) ++
  ([0x47, 0xf1, 0x1a, 0x71, 0x1d, 0x29, 0xc5, 0x89, 0x6f, 0xb7, 0x62, 0x0e, 0xaa, 0x18, 0xbe, 0x1b] : List Byte) ++
  ([0xfc, 0x56, 0x3e, 0x4b, 0xc6, 0xd2, 0x79, 0x20, 0x9a, 0xdb, 0xc0, 0xfe, 0x78, 0xcd, 0x5a, 0xf4] : List Byte) ++
  ([0x1f, 0xdd, 0xa8, 0x33, 0x88, 0x07, 0xc7, 0x31, 0xb1, 0x12, 0x10, 0x59, 0x27, 0x80, 0xec, 0x5f] : List Byte) ++
  ([0x60, 0x51, 0x7f, 0xa9, 0x19, 0xb5, 0x4a, 0x0d, 0x2d, 0xe5, 0x7a, 0x9f, 0x93, 0xc9, 0x9c, 0xef] : List Byte) ++
  ([0xa0, 0xe0, 0x3b, 0x4d, 0xae, 0x2a, 0xf5, 0xb0, 0xc8, 0xeb, 0xbb, 0x3c, 0x83, 0x53, 0x99, 0x61] : List Byte) ++
  ([0x17, 0x2b, 0x04, 0x7e, 0xba, 0x77, 0xd6, 0x26, 0xe1, 0x69, 0x14, 0x63, 0x55, 0x21, 0x0c, 0x7d] : List Byte)

/-- `Si`, the inverse substitution (R131). -/
def invSbox (x : Byte) : Byte := invSboxTable.getD x.toNat 0x00#8

/-- `SubBytes(s)[i] = S(s[i])` (R132). -/
def subBytes (s : Block) : Block := Vector.ofFn fun i => sbox s[i]

/-- `InvSubBytes(s)[i] = Si(s[i])` (R132). -/
def invSubBytes (s : Block) : Block := Vector.ofFn fun i => invSbox s[i]

/-- `ShiftRows(s)[r + 4c] = s[r + 4((c + r) mod 4)]` (R133). -/
def shiftRows (s : Block) : Block :=
  Vector.ofFn fun i =>
    let r := i.val % 4
    let c := i.val / 4
    s[r + 4 * ((c + r) % 4)]

/-- `InvShiftRows(s)[r + 4((c + r) mod 4)] = s[r + 4c]` (R133): byte r + 4c comes from column c - r. -/
def invShiftRows (s : Block) : Block :=
  Vector.ofFn fun i =>
    let r := i.val % 4
    let c := i.val / 4
    s[r + 4 * ((c + 4 - r) % 4)]

/-- One row of a column product: the circulant row `m0 m1 m2 m3` rotated to row `r`, applied to column `c` (R134,
R135). -/
def mixByte (m0 m1 m2 m3 : Byte) (s : Block) (i : Fin 16) : Byte :=
  let r := i.val % 4
  let c := i.val / 4
  gmul m0 s[4 * c + r] ^^^ gmul m1 s[4 * c + (r + 1) % 4] ^^^ gmul m2 s[4 * c + (r + 2) % 4] ^^^
    gmul m3 s[4 * c + (r + 3) % 4]

/-- `MixColumns` (R134). -/
def mixColumns (s : Block) : Block := Vector.ofFn (mixByte 0x02#8 0x03#8 0x01#8 0x01#8 s)

/-- `InvMixColumns` (R135). -/
def invMixColumns (s : Block) : Block := Vector.ofFn (mixByte 0x0e#8 0x0b#8 0x0d#8 0x09#8 s)

/-- `AddRoundKey(s, k)[i] = s[i] xor k[i]` (R136). -/
def addRoundKey (s k : Block) : Block := xorBytes s k

/-- One of the 13 full rounds (R137). -/
def fullRound (s k : Block) : Block := addRoundKey (mixColumns (shiftRows (subBytes s))) k

/-- The final round, "omitting the column-mixing step" (R137). -/
def finalRound (s k : Block) : Block := addRoundKey (shiftRows (subBytes s)) k

/-- Rounds 1 to 13. -/
def fullRounds : List (Fin 15) := [1, 2, 3, 4, 5, 6, 7, 8, 9, 10, 11, 12, 13]

/-- `Cipher(in, RK)` (R137). -/
def cipher (input : Block) (rk : RoundKeys) : Block :=
  finalRound (fullRounds.foldl (fun s r => fullRound s rk[r]) (addRoundKey input rk[0])) rk[14]

/-- One of the 13 full rounds of the inverse cipher (R138). -/
def invFullRound (s k : Block) : Block :=
  invMixColumns (addRoundKey (invSubBytes (invShiftRows s)) k)

/-- `InvCipher(in, RK)` (R138): rounds 13 down to 1, then the last one without column mixing. -/
def invCipher (input : Block) (rk : RoundKeys) : Block :=
  addRoundKey
    (invSubBytes (invShiftRows
      (fullRounds.reverse.foldl (fun s r => invFullRound s rk[r]) (addRoundKey input rk[14]))))
    rk[0]

/-- BLOCK_ENC (R150): DOUT <- Cipher(DIN, RK). -/
def execBlockEnc (s : State) : Host.Outcome State Fault Refusal :=
  .next { s with dout := cipher s.din s.rk }

/-- BLOCK_DEC (R152): DOUT <- InvCipher(DIN, RK). -/
def execBlockDec (s : State) : Host.Outcome State Fault Refusal :=
  .next { s with dout := invCipher s.din s.rk }

end Sys2Proof.Machine
end

