-- ==== Sys2Proof/Machine/Stream.lean ====
section
/-! DEFINITION. The Stream Cipher Driver (42_stream_driver.md): the counter, one unit of a pass, and the meanings of
STREAM_START, STREAM_BLOCK and STREAM_ABORT, the first two under any parameters `P`. -/

namespace Sys2Proof.Machine

/-- The big-endian value of a counter block: the sum over j of `b[j] * 256^(15 - j)` (R177). -/
def ctrValue (b : Block) : Nat :=
  ((List.finRange 16).map fun j => b[j].toNat * 256 ^ (15 - j.val)).sum

/-- The 16 bytes of a value, most significant first (R177). -/
def ctrBytes (v : Nat) : Block := Vector.ofFn fun j => BitVec.ofNat 8 (v / 256 ^ (15 - j.val))

/-- `Inc128`: plus one modulo 2^128 (R177). -/
def inc128 (b : Block) : Block := ctrBytes ((ctrValue b + 1) % 2 ^ 128)

/-- The unit's output: `DOUT[j] <- (j < n) ? (DIN[j] xor ks[j]) : 0x00` (R178, R180). -/
def unitOutput (n : Nat) (din ks : Block) : Block :=
  Vector.ofFn fun j => if j.val < n then din[j] ^^^ ks[j] else 0x00#8

/-- The plaintext bytes of a unit in stream order: DIN on encrypt, DIN xor keystream on decrypt (R178, R179). -/
def unitPlaintext (dir : Direction) (n : Nat) (din ks : Block) : List Byte :=
  (match dir with
    | .encrypt => din
    | .decrypt => xorBytes din ks).toList.take n

/-- CSUM_STEP once per byte, in order (43_checksum.md R205). -/
def absorbAll (P : Params) (acc : Word) (bytes : List Byte) : Word := bytes.foldl P.csumStep acc

/-- STREAM_START under the parameters `P` (R174). -/
def streamStart (P : Params) (d : Direction) (s : State) : State :=
  startFlags
    { s with ctr := P.ctrInit s.rk, acc := P.csumInit, off := 0, dir := d, lastN := 0 }

/-- STREAM_BLOCK under the parameters `P` (R178). -/
def streamBlock (P : Params) (s : State) : State :=
  let n := unitLen s.len s.off
  let ks := cipher s.ctr s.rk
  endOfUnitFlags
    { s with
      dout := unitOutput n s.din ks
      acc := absorbAll P s.acc (unitPlaintext s.dir n s.din ks)
      ctr := inc128 s.ctr
      off := advanceOff s.off n
      lastN := BitVec.ofNat 5 n }

/-- STREAM_START (R174). -/
def execStreamStart (d : Direction) (s : State) : Host.Outcome State Fault Refusal :=
  .next (streamStart params d s)

/-- STREAM_BLOCK (R178). -/
def execStreamBlock (s : State) : Host.Outcome State Fault Refusal :=
  .next (streamBlock params s)

/-- STREAM_ABORT (R181): ACTIVE <- 0; DONE <- 0. -/
def execStreamAbort (s : State) : Host.Outcome State Fault Refusal :=
  .next { s with active := false, done := false }

end Sys2Proof.Machine
end

