-- ==== Sys2Proof/Machine/Checksum.lean ====
section
/-! DEFINITION. The Checksum Accumulator (43_checksum.md): the meanings of CSUM_RESET and CSUM_ABSORB. The read of CSUM
(`finalize`) is in Machine/Port.lean. -/

namespace Sys2Proof.Machine

/-- CSUM_RESET under the parameters `P` (R203). -/
def csumReset (P : Params) (s : State) : State := { s with acc := P.csumInit }

/-- CSUM_ABSORB under the parameters `P` (R204). -/
def csumAbsorb (P : Params) (b : Byte) (s : State) : State := { s with acc := absorbAll P s.acc [b] }

/-- CSUM_RESET (R203). -/
def execCsumReset (s : State) : Host.Outcome State Fault Refusal := .next (csumReset params s)

/-- CSUM_ABSORB (R204). -/
def execCsumAbsorb (imm8 : Byte) (s : State) : Host.Outcome State Fault Refusal :=
  .next (csumAbsorb params imm8 s)

end Sys2Proof.Machine
end

