-- ==== Sys2Proof/Machine/Control.lean ====
section
/-! DEFINITION. The control commands (44_control.md): NOP, ZEROIZE and ERR_CLEAR. -/

namespace Sys2Proof.Machine

/-- NOP (R222): no state change. -/
def execNop (s : State) : Host.Outcome State Fault Refusal := .next s

/-- ZEROIZE (R224): every field but BUSY and PEND to its reset value; the
end of its core step returns those two (log 7). -/
def execZeroize (s : State) : Host.Outcome State Fault Refusal := .next (clearRecord params s)

/-- ERR_CLEAR (R226): ERR <- 0. -/
def execErrClear (s : State) : Host.Outcome State Fault Refusal := .next (clearErr s)

end Sys2Proof.Machine
end

