-- ==== Sys2Proof/Machine/Dispatch.lean ====
section
/-! DEFINITION. One arm per command: what the core step performs (70_reset_and_hazards.md R280). -/

namespace Sys2Proof.Machine

def exec (i : Instr) (s : State) : Host.Outcome State Fault Refusal :=
  match i with
  | .nop => Sys2Proof.Machine.execNop s
  | .keyExpand => Sys2Proof.Machine.execKeyExpand s
  | .blockEnc => Sys2Proof.Machine.execBlockEnc s
  | .blockDec => Sys2Proof.Machine.execBlockDec s
  | .streamStart d => Sys2Proof.Machine.execStreamStart d s
  | .streamBlock => Sys2Proof.Machine.execStreamBlock s
  | .streamAbort => Sys2Proof.Machine.execStreamAbort s
  | .csumReset => Sys2Proof.Machine.execCsumReset s
  | .csumAbsorb imm8 => Sys2Proof.Machine.execCsumAbsorb imm8 s
  | .zeroize => Sys2Proof.Machine.execZeroize s
  | .errClear => Sys2Proof.Machine.execErrClear s

end Sys2Proof.Machine
end

