-- ==== Sys2Proof/Machine/Step.lean ====
section
/-! DEFINITION. One step: one move of one agent (20_memory.md R70), and how a command word is put where the next step
performs it. -/

namespace Sys2Proof.Machine

/-- One step of the machine, under the default parameters. -/
def step (s : State) : Host.Outcome State Fault Refusal := move params exec s

/-- `s` with the command word accepted (PEND and BUSY, 10_state.md R34, R41) and the core to move next, so that the
very next step performs it. It stands for the accepted CMD write (log 2). -/
def State.withFetchWord (s : State) (nbits w : Nat) : State :=
  { s with pend := tableWord nbits w, busy := true, sched := .core :: s.sched }

end Sys2Proof.Machine
end

