-- ==== Sys2Proof/Machine/Instance.lean ====
section
/-! DEFINITION. The machine under any instance of the open parameters (00_scope.md R8: "The model takes each as an argument"). `exec`,
`step` and `core` are its default instance (log 6). -/

namespace Sys2Proof.Machine

/-- What the core does for a command under the parameters `P`. CTR_INIT, CSUM_INIT and CSUM_STEP enter the stream and checksum commands
and ZEROIZE; the other commands have none. -/
def execWith (P : Params) : Run
  | .nop, s => execNop s
  | .keyExpand, s => execKeyExpand s
  | .blockEnc, s => execBlockEnc s
  | .blockDec, s => execBlockDec s
  | .streamStart d, s => .next (streamStart P d s)
  | .streamBlock, s => .next (streamBlock P s)
  | .streamAbort, s => execStreamAbort s
  | .csumReset, s => .next (csumReset P s)
  | .csumAbsorb imm8, s => .next (csumAbsorb P imm8 s)
  | .zeroize, s => .next (clearRecord P s)
  | .errClear, s => execErrClear s

/-- One step under the parameters `P`. -/
def stepWith (P : Params) (s : State) : Host.Outcome State Fault Refusal := move P (execWith P) s

/-- The machine under the parameters `P`, in the host's interface. -/
def coreWith (P : Params) : Host.Core where
  State := State
  Fault := Fault
  Refusal := Refusal
  step := stepWith P
  reset := State.resetWith P

end Sys2Proof.Machine
end

