-- ==== Sys2Proof/Safety.lean ====
section
/-! DEFINITION. The terms the claims use: the invariants of a reachable state (10_state.md R42), which fields a command
may write (R47), and a pass as the sequence of its units (42_stream_driver.md R170 to R173). -/

namespace Sys2Proof.Machine

/-- The invariants of R42 that every step keeps, with R31 (what KV means for RK) and the condition of the pending
command (60_exceptions.md R240: what was checked at the write still holds at the core step). Item 2's "OFF = LEN" is
left out: R64 lets the host write LEN while DONE = 1 (log 14). Item 4 is said through OFF (log 15). -/
structure Inv (s : State) : Prop where
  /-- Items 1 and 7: an open pass has a schedule, bytes left, and stands on a unit boundary. -/
  openPass : s.active = true → s.kv = true ∧ s.off < s.len ∧ s.off.toNat % 16 = 0
  /-- Items 2 and 3: DONE and ACTIVE never hold together. -/
  doneNotActive : s.done = true → s.active = false
  /-- Item 4: LAST_N <= 16. -/
  lastNBound : s.lastN ≤ 16#5
  /-- Item 4: LAST_N = 0 exactly when no unit has run since OFF was last set to 0. -/
  lastNZero : s.lastN = 0 ↔ s.off = 0
  /-- Item 5: codes 6 to 15 are never produced. -/
  errBound : s.err ≤ 5#4
  /-- R31: with KV = 1, RK holds a schedule that KEY_EXPAND builds. -/
  schedule : s.kv = true → ∃ key, s.rk = keyExpansion key
  /-- R31, R44: with KV = 0, RK is as reset left it. -/
  noSchedule : s.kv = false → s.rk = zeroRoundKeys
  /-- R240, R280: a pending word is legal and its command's conditions hold. -/
  pending : s.busy = true → ∃ i, decode s.pend = .ok i ∧ commandError i s = none

/-- The fields of R47's table that a command may change. -/
structure Writes where
  key : Bool := false
  rkKv : Bool := false
  din : Bool := false
  dout : Bool := false
  ctr : Bool := false
  acc : Bool := false
  len : Bool := false
  off : Bool := false
  active : Bool := false
  done : Bool := false
  dir : Bool := false
  lastN : Bool := false
  err : Bool := false
deriving DecidableEq, Repr

/-- R47's table: a field is `false` where the table has `-`. LEN is written by ZEROIZE alone (the sentence below the
table). -/
def writes : Instr → Writes
  | .nop => {}
  | .keyExpand => { key := true, rkKv := true }
  | .blockEnc => { dout := true }
  | .blockDec => { dout := true }
  | .streamStart _ => { ctr := true, acc := true, off := true, active := true, done := true, dir := true, lastN := true }
  | .streamBlock => { dout := true, ctr := true, acc := true, off := true, active := true, done := true, lastN := true }
  | .streamAbort => { active := true, done := true }
  | .csumReset => { acc := true }
  | .csumAbsorb _ => { acc := true }
  | .zeroize =>
    { key := true, rkKv := true, din := true, dout := true, ctr := true, acc := true, len := true, off := true,
      active := true, done := true, dir := true, lastN := true, err := true }
  | .errClear => { err := true }

/-- Every field that `w` does not name is the same in `t` as in `s`. BUSY, PEND and the host's side are never part of a
command's effect: the end of the core step writes the first two (R34, R41, R280; log 7). -/
structure FrameOf (w : Writes) (s t : State) : Prop where
  key : w.key = false → t.key = s.key
  rk : w.rkKv = false → t.rk = s.rk
  kv : w.rkKv = false → t.kv = s.kv
  din : w.din = false → t.din = s.din
  dout : w.dout = false → t.dout = s.dout
  ctr : w.ctr = false → t.ctr = s.ctr
  acc : w.acc = false → t.acc = s.acc
  len : w.len = false → t.len = s.len
  off : w.off = false → t.off = s.off
  active : w.active = false → t.active = s.active
  done : w.done = false → t.done = s.done
  dir : w.dir = false → t.dir = s.dir
  lastN : w.lastN = false → t.lastN = s.lastN
  err : w.err = false → t.err = s.err
  busy : t.busy = s.busy
  pend : t.pend = s.pend
  prog : t.prog = s.prog
  sched : t.sched = s.sched
  seen : t.seen = s.seen

/-- The record of R20, PEND included, in the state it has after reset under `P`, whatever the host's side holds (R272). -/
def recordReset (P : Params) (s : State) : Prop :=
  s = { State.resetWith P with prog := s.prog, sched := s.sched, seen := s.seen }

/-- `CTR_u = (CTR_INIT(RK) + u) mod 2^128` (R172). -/
def counterBlock (P : Params) (rk : RoundKeys) (u : Nat) : Block :=
  ctrBytes ((ctrValue (P.ctrInit rk) + u) % 2 ^ 128)

/-- `Stream(RK, in)[i] = in[i] xor KS_{i div 16}[i mod 16]` (R170, R173). -/
def streamBytes (P : Params) (rk : RoundKeys) (input : List Byte) : List Byte :=
  List.ofFn fun i : Fin input.length =>
    input[i] ^^^ (cipher (counterBlock P rk (i.val / 16)) rk)[i.val % 16]

/-- `k` units from unit `u` on: DIN is loaded, STREAM_BLOCK runs, and the host keeps the first LAST_N bytes of DOUT
(R189), which READDOUT gives it (R90: Machine/HostProgram.lean readDoutBytes). -/
def passUnits (P : Params) (pad : Nat → Byte) (input : List Byte) : Nat → Nat → State → State × List Byte
  | 0, _, s => (s, [])
  | k + 1, u, s =>
    let t := streamBlock P { s with din := unitInput pad input u }
    let r := passUnits P pad input k (u + 1) t
    (r.1, t.dout.toList.take t.lastN.toNat ++ r.2)

/-- One pass over `input`: LEN is set, STREAM_START, then `ceil(LEN/16)` units; the final state and the output
(R182, R189). -/
def runPass (P : Params) (pad : Nat → Byte) (d : Direction) (input : List Byte) (s : State) : State × List Byte :=
  passUnits P pad input (unitCount input.length) 0
    (streamStart P d { s with len := BitVec.ofNat 64 input.length })

/-- The bytes of a pass that are plaintext (R179). -/
def passPlaintext (P : Params) (rk : RoundKeys) (d : Direction) (input : List Byte) : List Byte :=
  match d with
  | .encrypt => input
  | .decrypt => streamBytes P rk input

/-- The next move is the core step of `i` (70_reset_and_hazards.md R280). -/
def corePerforms (i : Instr) (s : State) : Prop :=
  mover s = .core ∧ s.busy = true ∧ decode s.pend = .ok i

/-- The next move is the host's statement `st`. -/
def hostPerforms (st : HostStmt) (s : State) : Prop :=
  mover s = .host ∧ s.prog.head? = some st

/-- The next move is a host write that reaches register `r` while BUSY = 0. -/
def hostWritesIdle (r : Reg) (s : State) : Prop :=
  s.busy = false ∧ ∃ v, hostPerforms (.write (regOffset r) 4 v) s

/-- The two states differ at most in KEY. -/
def sameButKey (s t : State) : Prop := t = { s with key := t.key }

end Sys2Proof.Machine
end

