-- ==== Sys2Proof/Certificates/Slice0/Obligations.lean ====
section
/-! DEFINITION. The statements for the provers, from the spec's numbered rules. No statement is about a program: they are about every
word, every state, every register and every input. -/

open Sys2Proof Sys2Proof.Machine

/-! ## Encoding (30_encoding.md) -/

/-- R91: the three worked encodings and the three Illegal words. -/
def Obligations.WorkedEncodingsDecode : Prop :=
  (encode .keyExpand = 0x00000001#32 ∧ decode 0x00000001#32 = .ok .keyExpand) ∧
  (encode (.streamStart .decrypt) = 0x00000104#32 ∧ decode 0x00000104#32 = .ok (.streamStart .decrypt)) ∧
  (encode (.csumAbsorb 0xA5#8) = 0x00A50008#32 ∧ decode 0x00A50008#32 = .ok (.csumAbsorb 0xA5#8)) ∧
  (∀ i, decode 0x00000105#32 ≠ .ok i) ∧ (∀ i, decode 0x0000000B#32 ≠ .ok i) ∧ (∀ i, decode 0x01000000#32 ≠ .ok i)

/-- Decode and encode agree both ways: every instruction with every operand is read back from its word, and a word that
decodes is the word of the instruction it decodes to (R85, R86, R89). -/
def Obligations.DecodeEncodeAgree : Prop :=
  (∀ i : Instr, decode (encode i) = .ok i) ∧ (∀ (v : Word) (i : Instr), decode v = .ok i → encode i = v)

/-- R85, R86: a word decodes exactly when it matches a row of the opcode map, the row is its command's, no word matches two rows,
and the operands are D = v[8] and IMM8 = v[23:16]. -/
def Obligations.DecodesExactlyOneRow : Prop :=
  (∀ v : Word, (∃ i, decode v = .ok i) ↔ ∃ r ∈ opcodeMap, r.matchesWord v = true) ∧
  (∀ (v : Word) (i : Instr), decode v = .ok i →
    ∃ r ∈ opcodeMap, r.mnemonic = i.mnemonic ∧ r.matchesWord v = true) ∧
  (∀ v : Word, ∀ r₁ ∈ opcodeMap, ∀ r₂ ∈ opcodeMap, r₁.matchesWord v = true → r₂.matchesWord v = true → r₁ = r₂) ∧
  (∀ (v : Word) (d : Direction), decode v = .ok (.streamStart d) → (d = .decrypt ↔ v.getLsbD 8 = true)) ∧
  (∀ (v : Word) (b : Byte), decode v = .ok (.csumAbsorb b) → b = v.extractLsb' 16 8)

/-- R81, R82: a word is legal exactly when bits [15:9] and [31:24] are 0, the opcode is at most 0x0A, bit 8 is 0 except in
STREAM_START, and bits [23:16] are 0 except in CSUM_ABSORB. -/
def Obligations.LegalityConditions : Prop :=
  ∀ v : Word, (∃ i, decode v = .ok i) ↔
    v.extractLsb' 9 7 = 0#7 ∧ v.extractLsb' 24 8 = 0#8 ∧ (v.extractLsb' 0 8).toNat ≤ 0x0A ∧
    (v.getLsbD 8 = true → v.extractLsb' 0 8 = 0x04#8) ∧
    (v.extractLsb' 16 8 ≠ 0#8 → v.extractLsb' 0 8 = 0x08#8)

/-! ## The step (70_reset_and_hazards.md R280, R281) -/

/-- When the core moves next with BUSY = 1 and PEND decodes to `i`, the step is exec of `i` (after the turn is taken from the
schedule), and BUSY is cleared in the same step, ZEROIZE's step returning PEND to its reset value too (R272; log 7). `withFetchWord`
puts a word exactly there. -/
def Obligations.StepPerformsPendingCommand : Prop :=
  (∀ (s : State) (i : Instr), mover s = .core → s.busy = true → decode s.pend = .ok i →
    step s = match exec i { s with sched := s.sched.tail } with
      | .next t => .next { t with busy := false, pend := if i = .zeroize then 0x00000000#32 else t.pend }
      | .fault f => .fault f
      | .refused r => .refused r) ∧
  (∀ (s : State) (nbits w : Nat) (i : Instr), decodeTableWord nbits w = some i →
    step (s.withFetchWord nbits w) = match exec i { s with pend := tableWord nbits w, busy := true } with
      | .next t => .next { t with busy := false, pend := if i = .zeroize then 0x00000000#32 else t.pend }
      | .fault f => .fault f
      | .refused r => .refused r)

/-- R245: every accepted command completes, with the effect its rule gives, BUSY being 0 afterwards (and PEND 0 after ZEROIZE, log 7).
The model's choice that the next mover is given by `sched` is log 1. -/
def Obligations.CoreStepNeverFails : Prop :=
  ∀ (s : State) (i : Instr), mover s = .core → s.busy = true → decode s.pend = .ok i →
    ∃ t, exec i { s with sched := s.sched.tail } = .next t ∧
      step s = .next { t with busy := false, pend := if i = .zeroize then 0x00000000#32 else t.pend }

/-! ## GF(2^8), the key schedule and the block transform -/

/-- R12: `a • b` is the product of the two polynomials over GF(2) modulo m(x) = x^8 + x^4 + x^3 + x + 1. -/
def Obligations.GfProductModuloPolynomial : Prop :=
  ∀ a b : Byte,
    let poly : Byte → Polynomial (ZMod 2) := fun x =>
      ∑ i : Fin 8, if x.getLsbD i.val then (Polynomial.X : Polynomial (ZMod 2)) ^ i.val else 0
    (Polynomial.X ^ 8 + Polynomial.X ^ 4 + Polynomial.X ^ 3 + Polynomial.X + 1 : Polynomial (ZMod 2)) ∣
      poly a * poly b - poly (gmul a b)

/-- R101: the table and the formula agree at all 256 entries, the formula's b being the multiplicative inverse, with 0^-1 = 0. -/
def Obligations.SubstitutionTableIsFormula : Prop :=
  (∀ x : Byte, sbox x = sboxFormula x) ∧ (∀ x : Byte, x ≠ 0 → gmul x (ginv x) = 1#8) ∧ ginv 0#8 = 0#8

/-- R131: Si is the inverse permutation of S. -/
def Obligations.InverseSubstitution : Prop :=
  (∀ x : Byte, invSbox (sbox x) = x) ∧ (∀ x : Byte, sbox (invSbox x) = x)

/-- R102, R103, R104, R105: there are 60 words; the first 8 words are the key; each later word is the word 8 positions earlier xor temp. -/
def Obligations.KeyScheduleRecurrence : Prop :=
  ∀ key : Key,
    (scheduleWords key).length = 60 ∧
    (∀ (i : Fin 8) (k : Fin 4), (scheduleWord key i.val)[k] = key[4 * i.val + k.val]) ∧
    (∀ i, 8 ≤ i → i < 60 → ∀ k : Fin 4,
      (scheduleWord key i)[k] = (scheduleWord key (i - 8))[k] ^^^
        (if i % 8 = 0 then
          sbox ((scheduleWord key (i - 1))[(k.val + 1) % 4]'(Nat.mod_lt _ (by decide))) ^^^
            (if k.val = 0 then 1#8 <<< (i / 8 - 1) else 0#8)
        else if i % 8 = 4 then sbox (scheduleWord key (i - 1))[k]
        else (scheduleWord key (i - 1))[k]))

/-- R106: RK[r][4c + k] = w[4r + c][k], and RK[0] || RK[1] = KEY. -/
def Obligations.RoundKeysFromWords : Prop :=
  ∀ key : Key,
    (∀ (r : Fin 15) (j c : Fin 4), (keyExpansion key)[r][4 * c.val + j.val] = (scheduleWord key (4 * r.val + c.val))[j]) ∧
    (∀ i : Fin 16, (keyExpansion key)[0][i] = key[i.val] ∧ (keyExpansion key)[1][i] = key[16 + i.val])

/-- R133: ShiftRows and InvShiftRows by rows and columns and as the two index permutations. -/
def Obligations.RowShiftingPermutations : Prop :=
  (∀ (s : Block) (r c : Fin 4),
    (shiftRows s)[r.val + 4 * c.val] = s[r.val + 4 * ((c.val + r.val) % 4)] ∧
    (invShiftRows s)[r.val + 4 * ((c.val + r.val) % 4)] = s[r.val + 4 * c.val]) ∧
  (∀ s : Block,
    shiftRows s = #v[s[0], s[5], s[10], s[15], s[4], s[9], s[14], s[3], s[8], s[13], s[2], s[7], s[12], s[1], s[6], s[11]] ∧
    invShiftRows s = #v[s[0], s[13], s[10], s[7], s[4], s[1], s[14], s[11], s[8], s[5], s[2], s[15], s[12], s[9], s[6], s[3]])

/-- R134: the four equations of MixColumns on every column, with 0x02 • a = xtime(a) and 0x03 • a = xtime(a) xor a. -/
def Obligations.ColumnMixingEquations : Prop :=
  (∀ a : Byte, gmul 0x02#8 a = xtime a ∧ gmul 0x03#8 a = xtime a ^^^ a) ∧
  (∀ (s : Block) (col : Fin 4),
    (mixColumns s)[4 * col.val] = xtime s[4 * col.val] ^^^ (xtime s[4 * col.val + 1] ^^^ s[4 * col.val + 1]) ^^^
      s[4 * col.val + 2] ^^^ s[4 * col.val + 3] ∧
    (mixColumns s)[4 * col.val + 1] = s[4 * col.val] ^^^ xtime s[4 * col.val + 1] ^^^
      (xtime s[4 * col.val + 2] ^^^ s[4 * col.val + 2]) ^^^ s[4 * col.val + 3] ∧
    (mixColumns s)[4 * col.val + 2] = s[4 * col.val] ^^^ s[4 * col.val + 1] ^^^ xtime s[4 * col.val + 2] ^^^
      (xtime s[4 * col.val + 3] ^^^ s[4 * col.val + 3]) ∧
    (mixColumns s)[4 * col.val + 3] = (xtime s[4 * col.val] ^^^ s[4 * col.val]) ^^^ s[4 * col.val + 1] ^^^
      s[4 * col.val + 2] ^^^ xtime s[4 * col.val + 3])

/-- R135: the four equations of InvMixColumns on every column, and that it undoes MixColumns (and the other way round). -/
def Obligations.InverseColumnMixing : Prop :=
  (∀ (s : Block) (col : Fin 4),
    (invMixColumns s)[4 * col.val] = gmul 0x0e#8 s[4 * col.val] ^^^ gmul 0x0b#8 s[4 * col.val + 1] ^^^
      gmul 0x0d#8 s[4 * col.val + 2] ^^^ gmul 0x09#8 s[4 * col.val + 3] ∧
    (invMixColumns s)[4 * col.val + 1] = gmul 0x09#8 s[4 * col.val] ^^^ gmul 0x0e#8 s[4 * col.val + 1] ^^^
      gmul 0x0b#8 s[4 * col.val + 2] ^^^ gmul 0x0d#8 s[4 * col.val + 3] ∧
    (invMixColumns s)[4 * col.val + 2] = gmul 0x0d#8 s[4 * col.val] ^^^ gmul 0x09#8 s[4 * col.val + 1] ^^^
      gmul 0x0e#8 s[4 * col.val + 2] ^^^ gmul 0x0b#8 s[4 * col.val + 3] ∧
    (invMixColumns s)[4 * col.val + 3] = gmul 0x0b#8 s[4 * col.val] ^^^ gmul 0x0d#8 s[4 * col.val + 1] ^^^
      gmul 0x09#8 s[4 * col.val + 2] ^^^ gmul 0x0e#8 s[4 * col.val + 3]) ∧
  (∀ s : Block, invMixColumns (mixColumns s) = s ∧ mixColumns (invMixColumns s) = s)

/-- R139: the two ciphers undo each other, for every schedule and every block. -/
def Obligations.CiphersAreInverse : Prop :=
  ∀ (rk : RoundKeys) (x : Block), invCipher (cipher x rk) rk = x ∧ cipher (invCipher x rk) rk = x

/-! ## The commands -/

/-- R110, R111: KEY_EXPAND always completes, builds the schedule of KEY, sets KV, clears KEY and changes nothing else; run again
without a reload it expands the zero key (70_reset_and_hazards.md R286). -/
def Obligations.KeyExpandEffect : Prop :=
  ∀ s : State,
    exec .keyExpand s = .next { s with rk := keyExpansion s.key, kv := true, key := zeroBytes 32 } ∧
    ∀ t, exec .keyExpand s = .next t →
      exec .keyExpand t = .next { t with rk := keyExpansion (Vector.ofFn fun _ => 0x00#8) }

/-- R150, R152: the block commands always complete and write DOUT alone, Cipher or InvCipher of DIN under RK; BLOCK_DEC of a
BLOCK_ENC output gives the block back. -/
def Obligations.BlockCommandsEffect : Prop :=
  ∀ s : State,
    exec .blockEnc s = .next { s with dout := cipher s.din s.rk } ∧
    exec .blockDec s = .next { s with dout := invCipher s.din s.rk } ∧
    exec .blockDec { s with din := cipher s.din s.rk } = .next { s with din := cipher s.din s.rk, dout := s.din }

/-- R174 under the default parameters: STREAM_START always completes; LEN = 0 completes the pass at once. -/
def Obligations.StreamStartEffect : Prop :=
  ∀ (d : Direction) (s : State),
    (s.len = 0 → exec (.streamStart d) s = .next { s with
      ctr := Vector.ofFn fun _ => 0x00#8, acc := 0, off := 0, dir := d, lastN := 0, active := false, done := true }) ∧
    (s.len ≠ 0 → exec (.streamStart d) s = .next { s with
      ctr := Vector.ofFn fun _ => 0x00#8, acc := 0, off := 0, dir := d, lastN := 0, active := true, done := false })

/-- R178, R179, R180 under the default parameters, for OFF < LEN (which ACTIVE = 1 implies): STREAM_BLOCK completes, with the
unit's output, the plaintext bytes absorbed in order, the counter plus one, OFF plus n, LAST_N = n, the pass closed when OFF = LEN,
and nothing else changed. -/
def Obligations.StreamBlockEffect : Prop :=
  ∀ s : State, s.off < s.len → ∃ t, exec .streamBlock s = .next t ∧
    let n := min 16 (s.len.toNat - s.off.toNat)
    let ks := cipher s.ctr s.rk
    (∀ j : Fin 16, t.dout[j] = if j.val < n then s.din[j] ^^^ ks[j] else 0x00#8) ∧
    t.acc = ((List.finRange 16).take n).foldl
      (fun a j => rotl32 a 1 + (if s.dir = .encrypt then s.din[j] else s.din[j] ^^^ ks[j]).zeroExtend 32) s.acc ∧
    ctrValue t.ctr = (ctrValue s.ctr + 1) % 2 ^ 128 ∧
    t.off.toNat = s.off.toNat + n ∧ t.lastN.toNat = n ∧
    (s.off.toNat + n = s.len.toNat → t.active = false ∧ t.done = true) ∧
    (s.off.toNat + n ≠ s.len.toNat → t.active = s.active ∧ t.done = s.done) ∧
    FrameOf (writes .streamBlock) s t

/-- STREAM_BLOCK completes from EVERY state, also where no pass is open (which no acceptance lets happen); LAST_N stays at most
16, DOUT beyond LAST_N is zero, and the frame holds. The unit length beyond LEN is a free value (log 9), and the statement holds for
each of its values. -/
def Obligations.StreamBlockAlwaysCompletes : Prop :=
  ∀ s : State, ∃ t, exec .streamBlock s = .next t ∧ t.lastN.toNat ≤ 16 ∧
    (∀ j : Fin 16, t.lastN.toNat ≤ j.val → t.dout[j] = 0x00#8) ∧ FrameOf (writes .streamBlock) s t

/-- R181: STREAM_ABORT always completes and clears ACTIVE and DONE alone. -/
def Obligations.StreamAbortEffect : Prop :=
  ∀ s : State, exec .streamAbort s = .next { s with active := false, done := false }

/-- R203, R204 under the default parameters (R200, R201): CSUM_RESET loads 0; CSUM_ABSORB rotates ACC left by one bit and adds the
byte modulo 2^32; both always complete and change ACC alone. -/
def Obligations.ChecksumCommandsEffect : Prop :=
  ∀ (s : State) (b : Byte),
    exec .csumReset s = .next { s with acc := 0x00000000#32 } ∧
    exec (.csumAbsorb b) s = .next { s with
      acc := BitVec.ofNat 32 (2 * (s.acc.toNat % 2 ^ 31) + s.acc.toNat / 2 ^ 31 + b.toNat) }

/-- R205: CSUM_RESET followed by CSUM_ABSORB of each byte in order leaves the fold of CSUM_STEP over the bytes, for every instance of
the parameters. -/
def Obligations.AbsorbsFold : Prop :=
  ∀ (P : Params) (bytes : List Byte) (s : State),
    bytes.foldl (fun t b => csumAbsorb P b t) (csumReset P s) = { s with acc := bytes.foldl P.csumStep P.csumInit }

/-- R222, R224, R226: NOP changes nothing; ZEROIZE returns every field but BUSY and PEND to its reset value (those two are the end of
its core step, log 7); ERR_CLEAR clears ERR alone; all three always complete. -/
def Obligations.ControlCommandsEffect : Prop :=
  ∀ s : State,
    exec .nop s = .next s ∧
    exec .errClear s = .next { s with err := 0 } ∧
    exec .zeroize s = .next { State.reset with
      busy := s.busy, pend := s.pend, prog := s.prog, sched := s.sched, seen := s.seen }

/-- R47, R46: whatever a command does, the fields its row of R47 marks unchanged are unchanged, LEN, BUSY, PEND and the host's side
included. -/
def Obligations.CommandFrames : Prop :=
  ∀ (i : Instr) (s t : State), exec i s = .next t → FrameOf (writes i) s t

/-! ## The port (20_memory.md, 60_exceptions.md) -/

/-- R240, R242: the outcome of a CMD write of any word from any state, by the priority of R242. The legal words are named by the
match and mask rows of R85. -/
def Obligations.CommandWriteOutcome : Prop :=
  ∀ (v : Word) (s : State), regWrite .cmd v s =
    if s.busy then (if s.err = 0 then { s with err := 5#4 } else s)
    else if s.err ≠ 0 then
      (if v = 0x00000000#32 ∨ v = 0x00000009#32 ∨ v = 0x0000000A#32 then { s with pend := v, busy := true } else s)
    else if ∀ r ∈ opcodeMap, r.matchesWord v = false then { s with err := 4#4 }
    else if s.active ∧ (v = 0x00000001#32 ∨ v = 0x00000002#32 ∨ v = 0x00000003#32 ∨
        v &&& 0xFFFFFEFF#32 = 0x00000004#32 ∨ v = 0x00000007#32 ∨ v &&& 0xFF00FFFF#32 = 0x00000008#32) then
      { s with err := 2#4 }
    else if s.active = false ∧ v = 0x00000005#32 then
      (if s.done then { s with err := 3#4 } else { s with err := 2#4 })
    else if s.kv = false ∧ (v = 0x00000002#32 ∨ v = 0x00000003#32 ∨ v &&& 0xFFFFFEFF#32 = 0x00000004#32) then
      { s with err := 1#4 }
    else { s with pend := v, busy := true }

/-- R241, R246, R248, R249, R250, R251: from ERR = 0, which register write reports which code, exactly. -/
def Obligations.ErrorCausesExact : Prop :=
  ∀ (r : Reg) (v : Word) (s : State), s.err = 0 →
    ((regWrite r v s).err = 5#4 ↔ s.busy = true) ∧
    ((regWrite r v s).err = 4#4 ↔ s.busy = false ∧ r = .cmd ∧ ∀ i, decode v ≠ .ok i) ∧
    ((regWrite r v s).err = 3#4 ↔
      s.busy = false ∧ r = .cmd ∧ decode v = .ok .streamBlock ∧ s.active = false ∧ s.done = true) ∧
    ((regWrite r v s).err = 2#4 ↔ s.busy = false ∧
      ((r = .cmd ∧ s.active = true ∧ ∃ i, decode v = .ok i ∧
          (i = .keyExpand ∨ i = .blockEnc ∨ i = .blockDec ∨ (∃ d, i = .streamStart d) ∨ i = .csumReset ∨
            ∃ b, i = .csumAbsorb b)) ∨
        (r = .cmd ∧ s.active = false ∧ s.done = false ∧ decode v = .ok .streamBlock) ∨
        ((r = .lenLo ∨ r = .lenHi) ∧ s.active = true))) ∧
    ((regWrite r v s).err = 1#4 ↔ s.busy = false ∧ r = .cmd ∧ s.active = false ∧ s.kv = false ∧
      ∃ i, decode v = .ok i ∧ (i = .blockEnc ∨ i = .blockDec ∨ ∃ d, i = .streamStart d)) ∧
    (regWrite r v s).err ≤ 5#4

/-- R243, R254: a register write that changes ERR found it 0 and changes nothing else; a write that finds an error keeps it. -/
def Obligations.ErrorReportIsPrecise : Prop :=
  ∀ (r : Reg) (v : Word) (s : State),
    ((regWrite r v s).err ≠ s.err → s.err = 0 ∧ regWrite r v s = { s with err := (regWrite r v s).err }) ∧
    (s.err ≠ 0 → (regWrite r v s).err = s.err)

/-- R244: while ERR != 0 (and BUSY = 0), every CMD word but those of NOP, ZEROIZE and ERR_CLEAR is without any effect, those three are
accepted, and KEY, DIN and LEN writes still take effect, LEN subject to its lock. -/
def Obligations.StickyHoldOnlyCommands : Prop :=
  ∀ (s : State) (v : Word), s.busy = false → s.err ≠ 0 →
    ((∀ i, decode v = .ok i → i ≠ .nop ∧ i ≠ .zeroize ∧ i ≠ .errClear) → regWrite .cmd v s = s) ∧
    (decode v = .ok .nop ∨ decode v = .ok .zeroize ∨ decode v = .ok .errClear →
      regWrite .cmd v s = { s with pend := v, busy := true }) ∧
    (∀ k : Fin 8, regWrite (.key k) v s = { s with key := setLaneWord (n := 8) s.key k v }) ∧
    (∀ k : Fin 4, regWrite (.din k) v s = { s with din := setLaneWord (n := 4) s.din k v }) ∧
    (s.active = false → regWrite .lenLo v s = { s with len := setLoHalf s.len v } ∧
      regWrite .lenHi v s = { s with len := setHiHalf s.len v }) ∧
    (s.active = true → regWrite .lenLo v s = s ∧ regWrite .lenHi v s = s)

/-- R246: while BUSY = 1 a write to any register does nothing but report E_BUSY, and a read still answers. -/
def Obligations.BusyWritesIgnored : Prop :=
  ∀ (s : State) (r : Reg) (v : Word) (rest : List HostStmt), s.busy = true → mover s = .host →
    (s.prog = .write (regOffset r) 4 v :: rest →
      step s = .next { s with err := (if s.err = 0 then 5#4 else s.err), prog := rest, sched := s.sched.tail }) ∧
    (s.prog = .read (regOffset r) 4 :: rest → ∃ t, step s = .next t ∧ t.err = s.err ∧ t.busy = true ∧ t.pend = s.pend)

/-- R33: every bit of the STATUS word. -/
def Obligations.StatusWordFields : Prop :=
  ∀ s : State,
    (status s).getLsbD 0 = s.busy ∧ (status s).getLsbD 1 = s.kv ∧ (status s).getLsbD 2 = s.active ∧
    (status s).getLsbD 3 = s.done ∧ ((status s).getLsbD 4 = true ↔ s.dir = .decrypt) ∧
    (status s).extractLsb' 5 3 = 0#3 ∧ (status s).extractLsb' 8 4 = s.err ∧ (status s).extractLsb' 12 4 = 0#4 ∧
    (status s).extractLsb' 16 5 = s.lastN ∧ (status s).extractLsb' 21 11 = 0#11

/-- R23, R25, R29, R64: while BUSY = 0 a DIN or (no pass being open) LEN write is read back through the port, its other words are as
before, and nothing else changes; byte 4k + b of DIN is byte b of the word. -/
def Obligations.DataRegistersReadBack : Prop :=
  ∀ (P : Params) (s : State) (v : Word), s.busy = false →
    (∀ k j : Fin 4, regRead P (.din j) (regWrite (.din k) v s) = if j = k then v else regRead P (.din j) s) ∧
    (∀ k b : Fin 4, (regWrite (.din k) v s).din[4 * k.val + b.val] = v.extractLsb' (8 * b.val) 8) ∧
    (∀ k : Fin 4, { regWrite (.din k) v s with din := s.din } = s) ∧
    (s.active = false →
      regRead P .lenLo (regWrite .lenLo v s) = v ∧ regRead P .lenHi (regWrite .lenLo v s) = regRead P .lenHi s ∧
      regRead P .lenHi (regWrite .lenHi v s) = v ∧ regRead P .lenLo (regWrite .lenHi v s) = regRead P .lenLo s ∧
      { regWrite .lenLo v s with len := s.len } = s ∧ { regWrite .lenHi v s with len := s.len } = s)

/-- R24, R64: a KEY word write while BUSY = 0 stores its four bytes, leaves the other 28 and every other field, and no KEY register
ever reads as anything but zero. -/
def Obligations.KeyIsWriteOnly : Prop :=
  ∀ (P : Params) (s : State) (v : Word) (k : Fin 8),
    regRead P (.key k) s = 0x00000000#32 ∧
    (s.busy = false →
      (∀ i : Fin 32, (regWrite (.key k) v s).key[i] =
        if i.val / 4 = k.val then v.extractLsb' (8 * (i.val % 4)) 8 else s.key[i]) ∧
      { regWrite (.key k) v s with key := s.key } = s)

/-- R62, R60, R61: an access reaches a register exactly when it is 4 bytes wide and its offset is the register's; any other access
is refused, the reading host's and the writing host's alike. -/
def Obligations.RegisterMapExact : Prop :=
  (∀ (off size : Nat) (r : Reg), regAt off size = some r ↔ size = 4 ∧ off = regOffset r) ∧
  (∀ off size : Nat, regAt off size = none ↔ ¬ (size = 4 ∧ off % 4 = 0 ∧ off ≤ 0x7C)) ∧
  (∀ (s : State) (off size : Nat) (v : Word) (rest : List HostStmt),
    mover s = .host → ¬ (size = 4 ∧ off % 4 = 0 ∧ off ≤ 0x7C) →
    (s.prog = .read off size :: rest ∨ s.prog = .write off size v :: rest) → step s = .refused .portAccess)

/-- R63, R23, R33: the word each register reads as: STATUS is the status word (its bits are StatusWordFields), DIN, DOUT and CTR byte by
byte, LEN and OFF by their halves, CSUM by CSUM_FINAL; CMD, KEY and the reserved slots read as zero. -/
def Obligations.RegisterReadValues : Prop :=
  ∀ (P : Params) (s : State),
    regRead P .status s = status s ∧
    (∀ k b : Fin 4,
      (regRead P (.din k) s).extractLsb' (8 * b.val) 8 = s.din[4 * k.val + b.val] ∧
      (regRead P (.dout k) s).extractLsb' (8 * b.val) 8 = s.dout[4 * k.val + b.val] ∧
      (regRead P (.ctr k) s).extractLsb' (8 * b.val) 8 = s.ctr[4 * k.val + b.val]) ∧
    (regRead P .lenLo s).toNat = s.len.toNat % 2 ^ 32 ∧ (regRead P .lenHi s).toNat = s.len.toNat / 2 ^ 32 ∧
    (regRead P .offLo s).toNat = s.off.toNat % 2 ^ 32 ∧ (regRead P .offHi s).toNat = s.off.toNat / 2 ^ 32 ∧
    regRead P .csum s = P.csumFinal s.acc ∧ regRead P .cmd s = 0x00000000#32 ∧
    (∀ k, regRead P (.key k) s = 0x00000000#32) ∧ (∀ k, regRead P (.reserved k) s = 0x00000000#32)

/-- R63, R68, R90, R206: a host read always completes, BUSY or not; it gives the host the register's word and changes no field of the
record. WAIT is such a read of STATUS, and stays the host's next statement exactly while BUSY = 1 (as one statement that polls, log 18).
READDOUT's four reads, BUSY or not, give the host the 16 bytes of DOUT, unpacked by R23, when the host takes the four moves (log 3).
CSUM shows CSUM_FINAL(ACC). -/
def Obligations.ReadsHaveNoSideEffect : Prop :=
  (∀ (s : State) (r : Reg) (rest : List HostStmt), mover s = .host → s.prog = .read (regOffset r) 4 :: rest →
    step s = .next { s with
      prog := rest, sched := s.sched.tail, seen := ⟨regOffset r, regRead params r s⟩ :: s.seen }) ∧
  (∀ (s : State) (rest : List HostStmt), mover s = .host → s.prog = .wait :: rest →
    step s = .next { s with
      prog := if s.busy then .wait :: rest else rest, sched := s.sched.tail, seen := ⟨0x04, status s⟩ :: s.seen }) ∧
  (∀ (s : State) (rest : List HostStmt),
    (s.sched.take 4 = [.host, .host, .host, .host] ∨ s.sched = [] ∧ s.busy = false) → s.prog = readDout ++ rest →
    ∃ t, core.run 4 s = .next t ∧ readDoutBytes t.seen = some s.dout ∧
      t = { s with prog := rest, sched := s.sched.drop 4, seen := t.seen }) ∧
  (∀ (P : Params) (s : State), regRead P .csum s = P.csumFinal s.acc)

/-- R64, R65, R26, R27, R28, R32, R33: while BUSY = 0, a write to a read-only or reserved register changes nothing, and the reserved
registers read as zero. -/
def Obligations.ReadOnlyRegistersIgnoreWrites : Prop :=
  ∀ (P : Params) (s : State) (r : Reg) (v : Word),
    ((r = .status ∨ (∃ k, r = .dout k) ∨ (∃ k, r = .ctr k) ∨ r = .csum ∨ r = .offLo ∨ r = .offHi ∨ ∃ k, r = .reserved k) →
      s.busy = false → regWrite r v s = s) ∧
    ((∃ k, r = .reserved k) ∨ r = .cmd → regRead P r s = 0x00000000#32)

/-- R90, R24, R64: the 8 writes of LOADKEY, in whatever order, leave KEY the key and change nothing else but the host's own statements.
The order loadKey fixes is the model's choice (log 27). The empty schedule is one case of the model's turn order (log 3). -/
def Obligations.LoadKeyAnyOrder : Prop :=
  ∀ (order : List (Fin 8)) (k : Key) (s : State) (rest : List HostStmt),
    order.Perm (List.finRange 8) → s.busy = false → s.sched = [] → s.prog = loadKeyIn order k ++ rest →
    core.run 8 s = .next { s with key := k, prog := rest }

/-! ## Whole-machine rules -/

/-- R44, R224, R272: every field of the state record after reset, and every field again, BUSY and PEND included, after the core step of
ZEROIZE from any state. The effect of ZEROIZE by itself leaves BUSY and PEND to the end of that step (log 7). ACC is CSUM_INIT's
default. -/
def Obligations.ResetValues : Prop :=
  let cleared : State → Prop := fun t =>
    (∀ i : Fin 32, t.key[i] = 0x00#8) ∧ (∀ (r : Fin 15) (i : Fin 16), t.rk[r][i] = 0x00#8) ∧ t.kv = false ∧
    (∀ i : Fin 16, t.din[i] = 0x00#8 ∧ t.dout[i] = 0x00#8 ∧ t.ctr[i] = 0x00#8) ∧ t.acc = 0x00000000#32 ∧
    t.len = 0 ∧ t.off = 0 ∧ t.active = false ∧ t.done = false ∧ t.dir = .encrypt ∧ t.err = 0 ∧ t.lastN = 0
  let idle : State → Prop := fun t => t.busy = false ∧ t.pend = 0x00000000#32
  (cleared State.reset ∧ idle State.reset) ∧
  (∀ s : State, ∃ t, exec .zeroize s = .next t ∧ cleared t) ∧
  (∀ s : State, corePerforms .zeroize s → ∃ t, step s = .next t ∧ cleared t ∧ idle t)

/-- The invariants of R42 hold right after reset, and STATUS and CSUM read as zero there (default parameters). -/
def Obligations.ResetSatisfiesInvariants : Prop :=
  Inv State.reset ∧ regRead params .status State.reset = 0x00000000#32 ∧ regRead params .csum State.reset = 0x00000000#32

/-- R42, R31: the invariants are kept by every step, from every state that has them: host reads, writes, polls and resets, and the
core step of every command. -/
def Obligations.StepKeepsInvariants : Prop :=
  ∀ s t : State, Inv s → step s = .next t → Inv t

/-- R245, R280: with the invariants, no step faults, and a step is refused only for an access the port cannot express. -/
def Obligations.StepsStopOnlyAtBadAccess : Prop :=
  ∀ s : State, Inv s →
    (∀ f, step s ≠ .fault f) ∧
    (∀ r, step s = .refused r → r = .portAccess ∧ ∃ st rest, s.prog = st :: rest ∧ st.wellFormed = false)

/-- R30, R31, R25, R26, R27, R29, R32, R21: which moves can change RK and KV, DIN, DOUT, CTR, LEN and OFF. -/
def Obligations.OnlyNamedMovesWrite : Prop :=
  ∀ s t : State, step s = .next t →
    let cleared := corePerforms .zeroize s ∨ hostPerforms .assertReset s
    (t.rk ≠ s.rk ∨ t.kv ≠ s.kv → cleared ∨ corePerforms .keyExpand s) ∧
    (t.din ≠ s.din → cleared ∨ ∃ k, hostWritesIdle (.din k) s) ∧
    (t.dout ≠ s.dout → cleared ∨ corePerforms .blockEnc s ∨ corePerforms .blockDec s ∨ corePerforms .streamBlock s) ∧
    (t.ctr ≠ s.ctr → cleared ∨ (∃ d, corePerforms (.streamStart d) s) ∨ corePerforms .streamBlock s) ∧
    (t.len ≠ s.len → cleared ∨ (s.active = false ∧ (hostWritesIdle .lenLo s ∨ hostWritesIdle .lenHi s))) ∧
    (t.off ≠ s.off → cleared ∨ (∃ d, corePerforms (.streamStart d) s) ∨ corePerforms .streamBlock s)

/-- R34: BUSY is set only by an accepted CMD write, whose word PEND then holds, and cleared only by the core step or reset. -/
def Obligations.BusyTransitions : Prop :=
  ∀ s t : State, step s = .next t →
    (s.busy = false → t.busy = true →
      ∃ v i, hostPerforms (.write 0x00 4 v) s ∧ decode v = .ok i ∧ commandError i s = none ∧ t.pend = v) ∧
    (s.busy = true → t.busy = false → (∃ i, corePerforms i s) ∨ hostPerforms .assertReset s)

/-- R39, R255: an error code is kept until ERR_CLEAR, ZEROIZE or reset, which return it to 0; it is set only while it is 0, by a host
write. -/
def Obligations.ErrIsSticky : Prop :=
  ∀ s t : State, step s = .next t → t.err ≠ s.err →
    (s.err = 0 ∧ ∃ off size v, hostPerforms (.write off size v) s) ∨
    (t.err = 0 ∧ (corePerforms .errClear s ∨ corePerforms .zeroize s ∨ hostPerforms .assertReset s))

/-- R34, R240, R246: while a command is pending, a host move other than reset changes no field of the record but ERR, so what was
checked at the write still holds at the core step. -/
def Obligations.PendingCommandUndisturbed : Prop :=
  ∀ s t : State, s.busy = true → mover s = .host → (∀ rest, s.prog ≠ .assertReset :: rest) → step s = .next t →
    t = { s with err := t.err, prog := t.prog, sched := t.sched, seen := t.seen } ∧ (t.err = s.err ∨ s.err = 0 ∧ t.err = 5#4)

/-- R24, R73, R257: no move but KEY_EXPAND carries KEY anywhere. From two states that differ only in KEY, every step gives states that
differ only in KEY: the host has read the same words. -/
def Obligations.KeyIsNotObservable : Prop :=
  ∀ s₁ s₂ t₁ : State, sameButKey s₁ s₂ → ¬ corePerforms .keyExpand s₁ → step s₁ = .next t₁ →
    ∃ t₂, step s₂ = .next t₂ ∧ sameButKey t₁ t₂

/-- R270: asserting reset takes any state, a pending command included, to the reset record; only the host's own side is kept. -/
def Obligations.ResetFromAnyState : Prop :=
  ∀ (s : State) (rest : List HostStmt), mover s = .host → s.prog = .assertReset :: rest →
    step s = .next { State.reset with prog := rest, sched := s.sched.tail, seen := s.seen }

/-- R272 (and R224's corner case): a completed ZEROIZE leaves the record exactly as reset leaves it, PEND included (log 7), with the
host's own side as before, the turn taken from its schedule. -/
def Obligations.ZeroizeLeavesResetRecord : Prop :=
  ∀ s : State, corePerforms .zeroize s →
    ∃ t, step s = .next t ∧ recordReset params t ∧ t.prog = s.prog ∧ t.sched = s.sched.tail ∧ t.seen = s.seen

/-- R29, R64, R36: LEN may be written after a pass has completed, DONE staying 1; so DONE = 1 with OFF ≠ LEN is reached from reset.
This is the model's reading of R64 against item 2 of R42 (log 14). -/
def Obligations.DoneDoesNotLockLen : Prop :=
  ∃ (prog : List HostStmt) (n : Nat) (t : State),
    core.run n { State.reset with prog := prog } = .next t ∧ t.done = true ∧ t.off ≠ t.len ∧ t.busy = false ∧ t.err = 0

/-- R42 item 2, R32, R36: DONE = 1 says that OFF = LEN. A step from a state in which it does ends in one in which it does, but for one
move: a host write of LEN while DONE = 1 and no pass is open, which R29 and R64 accept and after which R36 leaves DONE as it is (log 14). -/
def Obligations.DoneMarksWholeStream : Prop :=
  ∀ s t : State, (s.done = true → s.off = s.len) → step s = .next t →
    (t.done = true → t.off = t.len) ∨
    (s.done = true ∧ s.active = false ∧ (hostWritesIdle .lenLo s ∨ hostWritesIdle .lenHi s))

/-- R36, R42 item 2, R32, over whole runs: from a state with the invariants, in any later state with DONE = 1, OFF is the length of the pass
that completed. There was a state on the way, this one or an earlier one, with DONE = 1 and OFF = LEN, and from it on DONE has stayed 1
and OFF has kept that value, so only LEN can have moved since (by the host, DoneMarksWholeStream; log 14). -/
def Obligations.DoneKeepsPassLength : Prop :=
  ∀ (n : Nat) (s t : State), Inv s → (s.done = true → s.off = s.len) → core.run n s = .next t → t.done = true →
    ∃ (m : Nat) (u : State), m ≤ n ∧ core.run m s = .next u ∧ u.done = true ∧ u.off = u.len ∧
      ∀ (k : Nat) (v : State), m ≤ k → k ≤ n → core.run k s = .next v → v.done = true ∧ v.off = u.len

/-! ## The stream (42_stream_driver.md), for every instance of the parameters -/

/-- R177: read as the big-endian 128-bit integer v of its bytes, Inc128 gives v + 1 modulo 2^128, most significant byte first; the value
determines the block. R172: u increments add u. -/
def Obligations.CounterIsBigEndian : Prop :=
  let value : Block → Nat := fun b => ∑ j : Fin 16, b[j].toNat * 256 ^ (15 - j.val)
  (∀ b : Block, value (inc128 b) = (value b + 1) % 2 ^ 128) ∧
  (∀ a b : Block, value a = value b → a = b) ∧
  (∀ (b : Block) (u : Nat), value (inc128^[u] b) = (value b + u) % 2 ^ 128 ∧ inc128^[u] b = ctrBytes ((value b + u) % 2 ^ 128))

/-- R170, R171, R172, R173, R178, R179, R182: a pass of ceil(LEN/16) STREAM_BLOCK commands over any input outputs exactly
Stream(RK, in), whatever pads the last unit; it ends with ACTIVE = 0, DONE = 1, OFF = LEN, CTR = CTR_U and ACC the fold over the
plaintext, RK being untouched. -/
def Obligations.PassComputesStream : Prop :=
  ∀ (P : Params) (pad : Nat → Byte) (d : Direction) (input : List Byte) (s : State), input.length < 2 ^ 64 →
    let r := runPass P pad d input s
    r.2 = streamBytes P s.rk input ∧ r.2.length = input.length ∧
    r.1.active = false ∧ r.1.done = true ∧ r.1.off = r.1.len ∧ r.1.len.toNat = input.length ∧
    r.1.ctr = counterBlock P s.rk (unitCount input.length) ∧
    r.1.acc = (passPlaintext P s.rk d input).foldl P.csumStep P.csumInit ∧
    r.1.rk = s.rk ∧ r.1.dir = d

/-- R173: the stream function is its own inverse and keeps the length. -/
def Obligations.StreamFunctionInvolutive : Prop :=
  ∀ (P : Params) (rk : RoundKeys) (x : List Byte),
    streamBytes P rk (streamBytes P rk x) = x ∧ (streamBytes P rk x).length = x.length

/-- R185: an encrypt pass over `p`, then a decrypt pass over its output with the same schedule from any state, gives `p` back with the
same length and the same final accumulator. -/
def Obligations.PassRoundTrip : Prop :=
  ∀ (P : Params) (pad pad' : Nat → Byte) (p : List Byte) (s s' : State), p.length < 2 ^ 64 → s'.rk = s.rk →
    let e := runPass P pad .encrypt p s
    let d := runPass P pad' .decrypt e.2 s'
    e.2.length = p.length ∧ d.2 = p ∧ d.1.acc = e.1.acc

/-- R183: with LEN = 0, STREAM_START alone completes the pass: no unit, CTR = CTR_INIT(RK), ACC = CSUM_INIT. -/
def Obligations.EmptyStreamCompletesAtStart : Prop :=
  ∀ (P : Params) (d : Direction) (s : State), s.len = 0 →
    (streamStart P d s).active = false ∧ (streamStart P d s).done = true ∧ (streamStart P d s).off = (streamStart P d s).len ∧
    (streamStart P d s).ctr = P.ctrInit s.rk ∧ (streamStart P d s).acc = P.csumInit ∧ unitCount 0 = 0

/-! ## Progress -/

/-- R280, R70, R71, R90, R272: whatever the schedule, a host that issues an acceptable command and waits gets past WAIT after finitely many
moves, with the command performed exactly once, BUSY = 0 (and PEND 0 after ZEROIZE, log 7) and nothing else changed. That the schedule is a finite list after which the
core moves first is the model's form of the fairness assumption (log 3). -/
def Obligations.DoCommandCompletes : Prop :=
  ∀ (s : State) (i : Instr) (rest : List HostStmt),
    s.busy = false → (s.err = 0 ∨ i = .nop ∨ i = .zeroize ∨ i = .errClear) → commandError i s = none →
    s.prog = doCmd i ++ rest →
    ∃ n t u, n ≤ s.sched.length + 3 ∧ core.run n s = .next t ∧
      exec i { s with pend := encode i, busy := true } = .next u ∧
      t = { u with
        busy := false, pend := if i = .zeroize then 0x00000000#32 else u.pend
        prog := rest, sched := t.sched, seen := t.seen }

/-! ## The machine of any instance of the parameters (00_scope.md R8) -/

/-- R8 with R174, R178 to R180, R203 to R205 and R224: under every instance of the parameters the commands that use one complete, with
that instance's CTR_INIT, CSUM_INIT and CSUM_STEP in their effect; the others are exec's. exec is the default instance (log 6). -/
def Obligations.InstanceCommandsUseParameters : Prop :=
  ∀ (P : Params) (s : State),
    (∀ d : Direction, execWith P (.streamStart d) s = .next { s with
      ctr := P.ctrInit s.rk, acc := P.csumInit, off := 0, dir := d, lastN := 0
      active := decide (s.len ≠ 0), done := decide (s.len = 0) }) ∧
    (s.off < s.len → ∃ t, execWith P .streamBlock s = .next t ∧
      let n := min 16 (s.len.toNat - s.off.toNat)
      let ks := cipher s.ctr s.rk
      (∀ j : Fin 16, t.dout[j] = if j.val < n then s.din[j] ^^^ ks[j] else 0x00#8) ∧
      t.acc = ((List.finRange 16).take n).foldl
        (fun a j => P.csumStep a (if s.dir = .encrypt then s.din[j] else s.din[j] ^^^ ks[j])) s.acc ∧
      ctrValue t.ctr = (ctrValue s.ctr + 1) % 2 ^ 128 ∧
      t.off.toNat = s.off.toNat + n ∧ t.lastN.toNat = n ∧
      (s.off.toNat + n = s.len.toNat → t.active = false ∧ t.done = true) ∧
      (s.off.toNat + n ≠ s.len.toNat → t.active = s.active ∧ t.done = s.done) ∧
      FrameOf (writes .streamBlock) s t) ∧
    execWith P .csumReset s = .next { s with acc := P.csumInit } ∧
    (∀ b : Byte, execWith P (.csumAbsorb b) s = .next { s with acc := P.csumStep s.acc b }) ∧
    execWith P .zeroize s = .next { State.reset with
      acc := P.csumInit, busy := s.busy, pend := s.pend, prog := s.prog, sched := s.sched, seen := s.seen } ∧
    (∀ i ∈ [Instr.nop, .keyExpand, .blockEnc, .blockDec, .streamAbort, .errClear], execWith P i s = exec i s) ∧
    (∀ i : Instr, execWith params i s = exec i s)

/-- R8 with R63, R206, R270, R280 and R42: the machine of every instance performs a pending command by that instance's effect, answers a
read by its CSUM_FINAL, is reset to its CSUM_INIT, makes the other host moves as the default machine does, and keeps the invariants.
The default machine is its default instance (log 6). -/
def Obligations.InstanceMachineUsesParameters : Prop :=
  ∀ P : Params,
    (∀ (s : State) (i : Instr), corePerforms i s →
      ∃ t, execWith P i { s with sched := s.sched.tail } = .next t ∧
        stepWith P s = .next { t with busy := false, pend := if i = .zeroize then 0x00000000#32 else t.pend }) ∧
    (∀ (s : State) (r : Reg) (rest : List HostStmt), mover s = .host → s.prog = .read (regOffset r) 4 :: rest →
      stepWith P s = .next { s with
        prog := rest, sched := s.sched.tail, seen := ⟨regOffset r, regRead P r s⟩ :: s.seen }) ∧
    (∀ (s : State) (rest : List HostStmt), mover s = .host → s.prog = .assertReset :: rest →
      stepWith P s = .next { State.reset with
        acc := P.csumInit, prog := rest, sched := s.sched.tail, seen := s.seen }) ∧
    (∀ s : State, hostPerforms .wait s ∨ (∃ off size v, hostPerforms (.write off size v) s) → stepWith P s = step s) ∧
    (coreWith P).reset = { State.reset with acc := P.csumInit } ∧
    Inv (State.resetWith P) ∧ (∀ s t : State, Inv s → stepWith P s = .next t → Inv t) ∧
    stepWith params = step ∧ coreWith params = core
end

