-- ==== Sys2Proof/Laws/Counter.lean ====
section
/-! SUPPORT. Big-endian numbers in base 256: the value of n digits, and its digits. -/

namespace Sys2Proof.Machine

/-- The big-endian value of the digits `f 0 .. f (n-1)`. -/
def bigEndian (n : Nat) (f : Nat → Nat) : Nat := ∑ j ∈ Finset.range n, f j * 256 ^ (n - 1 - j)

theorem bigEndian_congr {n : Nat} {f g : Nat → Nat} (h : ∀ j, j < n → f j = g j) : bigEndian n f = bigEndian n g :=
  Finset.sum_congr rfl fun j hj => by rw [h j (Finset.mem_range.mp hj)]

theorem bigEndian_succ (n : Nat) (f : Nat → Nat) : bigEndian (n + 1) f = 256 * bigEndian n f + f n := by
  unfold bigEndian
  rw [Finset.sum_range_succ, Finset.mul_sum]
  congr 1
  · refine Finset.sum_congr rfl fun j hj => ?_
    have hj' := Finset.mem_range.mp hj
    rw [show n + 1 - 1 - j = (n - 1 - j) + 1 by omega, pow_succ]
    ring
  · simp

theorem bigEndian_lt (n : Nat) (f : Nat → Nat) (h : ∀ j, f j < 256) : bigEndian n f < 256 ^ n := by
  induction n with
  | zero => simp [bigEndian]
  | succ n ih => rw [bigEndian_succ, pow_succ]; have := h n; omega

/-- Digit `j` of the value is `f j`. -/
theorem bigEndian_digit (n : Nat) (f : Nat → Nat) (h : ∀ j, f j < 256) (j : Nat) (hj : j < n) :
    bigEndian n f / 256 ^ (n - 1 - j) % 256 = f j := by
  induction n with
  | zero => omega
  | succ n ih =>
    rw [bigEndian_succ]
    by_cases hn : j = n
    · subst hn
      have := h j
      simp; omega
    · rw [show n + 1 - 1 - j = (n - 1 - j) + 1 by omega, pow_succ, mul_comm (256 ^ _) 256, ← Nat.div_div_eq_div_mul]
      have := h n
      rw [show (256 * bigEndian n f + f n) / 256 = bigEndian n f by omega]
      exact ih (by omega)

/-- The value of the digits of `v` is `v`. -/
theorem bigEndian_of_digits (n v : Nat) : bigEndian n (fun j => v / 256 ^ (n - 1 - j) % 256) = v % 256 ^ n := by
  induction n generalizing v with
  | zero => simp [bigEndian, Nat.mod_one]
  | succ n ih =>
    rw [bigEndian_succ]
    have e : bigEndian n (fun j => v / 256 ^ (n + 1 - 1 - j) % 256) =
        bigEndian n (fun j => v / 256 / 256 ^ (n - 1 - j) % 256) := by
      refine Finset.sum_congr rfl fun j hj => ?_
      have hj' := Finset.mem_range.mp hj
      dsimp only
      rw [show n + 1 - 1 - j = (n - 1 - j) + 1 by omega, pow_succ, mul_comm (256 ^ _) 256, Nat.div_div_eq_div_mul]
    rw [e, ih, pow_succ, mul_comm (256 ^ n) 256, Nat.mod_mul]
    simp
    omega

/-- A counter block's value as a big-endian number (42_stream_driver.md R177). -/
theorem ctrValue_eq_bigEndian (b : Block) : ctrValue b = bigEndian 16 (fun j => (b.toList.getD j 0).toNat) := by
  unfold ctrValue bigEndian
  rw [Finset.sum_range, ← List.sum_ofFn]
  refine congrArg List.sum (List.ext_getElem ?_ ?_)
  · simp
  · intro j h1 h2
    have hj : j < 16 := by simpa using h1
    have hl : j < b.toList.length := by simpa using hj
    simp only [List.getElem_map, List.getElem_finRange, List.getElem_ofFn, List.getD_eq_getElem?_getD,
      List.getElem?_eq_getElem hl, Option.getD_some, Vector.getElem_toList, Fin.getElem_fin, Fin.val_cast]

end Sys2Proof.Machine
end

