-- ==== Sys2Proof/Laws/Decode.lean ====
section
/-! SUPPORT. Command words by their fields (30_encoding.md R80 to R84). -/

namespace Sys2Proof

/-- A word is its five fields: OPCODE, bit 8, bits [15:9], IMM8 and bits [31:24]. -/
theorem word_fields (v w : Word) (h0 : v.extractLsb' 0 8 = w.extractLsb' 0 8) (h1 : v.getLsbD 8 = w.getLsbD 8)
    (h2 : v.extractLsb' 9 7 = w.extractLsb' 9 7) (h3 : v.extractLsb' 16 8 = w.extractLsb' 16 8)
    (h4 : v.extractLsb' 24 8 = w.extractLsb' 24 8) : v = w := by
  apply BitVec.eq_of_getLsbD_eq
  intro i hi
  have k0 := fun j => congrArg (fun x : BitVec 8 => x.getLsbD j) h0
  have k2 := fun j => congrArg (fun x : BitVec 7 => x.getLsbD j) h2
  have k3 := fun j => congrArg (fun x : BitVec 8 => x.getLsbD j) h3
  have k4 := fun j => congrArg (fun x : BitVec 8 => x.getLsbD j) h4
  simp only [BitVec.getLsbD_extractLsb'] at k0 k2 k3 k4
  rcases (by omega : i < 8 ∨ i = 8 ∨ (9 ≤ i ∧ i < 16) ∨ (16 ≤ i ∧ i < 24) ∨ (24 ≤ i)) with h | h | h | h | h
  · simpa [h] using k0 i
  · rw [h]; exact h1
  · simpa [show i - 9 < 7 by omega, show 9 + (i - 9) = i by omega] using k2 (i - 9)
  · simpa [show i - 16 < 8 by omega, show 16 + (i - 16) = i by omega] using k3 (i - 16)
  · simpa [show i - 24 < 8 by omega, show 24 + (i - 24) = i by omega] using k4 (i - 24)

/-- The fields of CSUM_ABSORB's word. -/
theorem encode_csumAbsorb_fields : ∀ b : Byte,
    (encode (.csumAbsorb b)).extractLsb' 0 8 = 0x08#8 ∧ (encode (.csumAbsorb b)).getLsbD 8 = false ∧
    (encode (.csumAbsorb b)).extractLsb' 9 7 = 0#7 ∧ (encode (.csumAbsorb b)).extractLsb' 16 8 = b ∧
    (encode (.csumAbsorb b)).extractLsb' 24 8 = 0#8 := by decide

end Sys2Proof
end

