-- ==== Sys2Proof/Laws/State.lean ====
section
/-! SUPPORT. The fields of a state after each named update: one lemma per field. -/

namespace Sys2Proof.Machine

/-! raiseErr -/

@[simp] theorem raiseErr_key (e : ErrCode) (s : State) : (raiseErr e s).key = s.key := by unfold raiseErr; split <;> rfl
@[simp] theorem raiseErr_rk (e : ErrCode) (s : State) : (raiseErr e s).rk = s.rk := by unfold raiseErr; split <;> rfl
@[simp] theorem raiseErr_kv (e : ErrCode) (s : State) : (raiseErr e s).kv = s.kv := by unfold raiseErr; split <;> rfl
@[simp] theorem raiseErr_din (e : ErrCode) (s : State) : (raiseErr e s).din = s.din := by unfold raiseErr; split <;> rfl
@[simp] theorem raiseErr_dout (e : ErrCode) (s : State) : (raiseErr e s).dout = s.dout := by unfold raiseErr; split <;> rfl
@[simp] theorem raiseErr_ctr (e : ErrCode) (s : State) : (raiseErr e s).ctr = s.ctr := by unfold raiseErr; split <;> rfl
@[simp] theorem raiseErr_acc (e : ErrCode) (s : State) : (raiseErr e s).acc = s.acc := by unfold raiseErr; split <;> rfl
@[simp] theorem raiseErr_len (e : ErrCode) (s : State) : (raiseErr e s).len = s.len := by unfold raiseErr; split <;> rfl
@[simp] theorem raiseErr_off (e : ErrCode) (s : State) : (raiseErr e s).off = s.off := by unfold raiseErr; split <;> rfl
@[simp] theorem raiseErr_active (e : ErrCode) (s : State) : (raiseErr e s).active = s.active := by unfold raiseErr; split <;> rfl
@[simp] theorem raiseErr_done (e : ErrCode) (s : State) : (raiseErr e s).done = s.done := by unfold raiseErr; split <;> rfl
@[simp] theorem raiseErr_dir (e : ErrCode) (s : State) : (raiseErr e s).dir = s.dir := by unfold raiseErr; split <;> rfl
@[simp] theorem raiseErr_lastN (e : ErrCode) (s : State) : (raiseErr e s).lastN = s.lastN := by unfold raiseErr; split <;> rfl
@[simp] theorem raiseErr_busy (e : ErrCode) (s : State) : (raiseErr e s).busy = s.busy := by unfold raiseErr; split <;> rfl
@[simp] theorem raiseErr_pend (e : ErrCode) (s : State) : (raiseErr e s).pend = s.pend := by unfold raiseErr; split <;> rfl
@[simp] theorem raiseErr_prog (e : ErrCode) (s : State) : (raiseErr e s).prog = s.prog := by unfold raiseErr; split <;> rfl
@[simp] theorem raiseErr_sched (e : ErrCode) (s : State) : (raiseErr e s).sched = s.sched := by unfold raiseErr; split <;> rfl
@[simp] theorem raiseErr_seen (e : ErrCode) (s : State) : (raiseErr e s).seen = s.seen := by unfold raiseErr; split <;> rfl

@[simp] theorem raiseErr_err (e : ErrCode) (s : State) :
    (raiseErr e s).err = if s.err = 0 then errValue e else s.err := by unfold raiseErr; split <;> simp_all

/-! clearErr -/

@[simp] theorem clearErr_key (s : State) : (clearErr s).key = s.key := rfl
@[simp] theorem clearErr_rk (s : State) : (clearErr s).rk = s.rk := rfl
@[simp] theorem clearErr_kv (s : State) : (clearErr s).kv = s.kv := rfl
@[simp] theorem clearErr_din (s : State) : (clearErr s).din = s.din := rfl
@[simp] theorem clearErr_dout (s : State) : (clearErr s).dout = s.dout := rfl
@[simp] theorem clearErr_ctr (s : State) : (clearErr s).ctr = s.ctr := rfl
@[simp] theorem clearErr_acc (s : State) : (clearErr s).acc = s.acc := rfl
@[simp] theorem clearErr_len (s : State) : (clearErr s).len = s.len := rfl
@[simp] theorem clearErr_off (s : State) : (clearErr s).off = s.off := rfl
@[simp] theorem clearErr_active (s : State) : (clearErr s).active = s.active := rfl
@[simp] theorem clearErr_done (s : State) : (clearErr s).done = s.done := rfl
@[simp] theorem clearErr_dir (s : State) : (clearErr s).dir = s.dir := rfl
@[simp] theorem clearErr_err (s : State) : (clearErr s).err = 0 := rfl
@[simp] theorem clearErr_lastN (s : State) : (clearErr s).lastN = s.lastN := rfl
@[simp] theorem clearErr_busy (s : State) : (clearErr s).busy = s.busy := rfl
@[simp] theorem clearErr_pend (s : State) : (clearErr s).pend = s.pend := rfl
@[simp] theorem clearErr_prog (s : State) : (clearErr s).prog = s.prog := rfl
@[simp] theorem clearErr_sched (s : State) : (clearErr s).sched = s.sched := rfl
@[simp] theorem clearErr_seen (s : State) : (clearErr s).seen = s.seen := rfl

/-! acceptCmd -/

@[simp] theorem acceptCmd_key (v : Word) (s : State) : (acceptCmd v s).key = s.key := rfl
@[simp] theorem acceptCmd_rk (v : Word) (s : State) : (acceptCmd v s).rk = s.rk := rfl
@[simp] theorem acceptCmd_kv (v : Word) (s : State) : (acceptCmd v s).kv = s.kv := rfl
@[simp] theorem acceptCmd_din (v : Word) (s : State) : (acceptCmd v s).din = s.din := rfl
@[simp] theorem acceptCmd_dout (v : Word) (s : State) : (acceptCmd v s).dout = s.dout := rfl
@[simp] theorem acceptCmd_ctr (v : Word) (s : State) : (acceptCmd v s).ctr = s.ctr := rfl
@[simp] theorem acceptCmd_acc (v : Word) (s : State) : (acceptCmd v s).acc = s.acc := rfl
@[simp] theorem acceptCmd_len (v : Word) (s : State) : (acceptCmd v s).len = s.len := rfl
@[simp] theorem acceptCmd_off (v : Word) (s : State) : (acceptCmd v s).off = s.off := rfl
@[simp] theorem acceptCmd_active (v : Word) (s : State) : (acceptCmd v s).active = s.active := rfl
@[simp] theorem acceptCmd_done (v : Word) (s : State) : (acceptCmd v s).done = s.done := rfl
@[simp] theorem acceptCmd_dir (v : Word) (s : State) : (acceptCmd v s).dir = s.dir := rfl
@[simp] theorem acceptCmd_err (v : Word) (s : State) : (acceptCmd v s).err = s.err := rfl
@[simp] theorem acceptCmd_lastN (v : Word) (s : State) : (acceptCmd v s).lastN = s.lastN := rfl
@[simp] theorem acceptCmd_busy (v : Word) (s : State) : (acceptCmd v s).busy = true := rfl
@[simp] theorem acceptCmd_pend (v : Word) (s : State) : (acceptCmd v s).pend = v := rfl
@[simp] theorem acceptCmd_prog (v : Word) (s : State) : (acceptCmd v s).prog = s.prog := rfl
@[simp] theorem acceptCmd_sched (v : Word) (s : State) : (acceptCmd v s).sched = s.sched := rfl
@[simp] theorem acceptCmd_seen (v : Word) (s : State) : (acceptCmd v s).seen = s.seen := rfl

/-! completeCmd -/

@[simp] theorem completeCmd_key (i : Instr) (s : State) : (completeCmd i s).key = s.key := rfl
@[simp] theorem completeCmd_rk (i : Instr) (s : State) : (completeCmd i s).rk = s.rk := rfl
@[simp] theorem completeCmd_kv (i : Instr) (s : State) : (completeCmd i s).kv = s.kv := rfl
@[simp] theorem completeCmd_din (i : Instr) (s : State) : (completeCmd i s).din = s.din := rfl
@[simp] theorem completeCmd_dout (i : Instr) (s : State) : (completeCmd i s).dout = s.dout := rfl
@[simp] theorem completeCmd_ctr (i : Instr) (s : State) : (completeCmd i s).ctr = s.ctr := rfl
@[simp] theorem completeCmd_acc (i : Instr) (s : State) : (completeCmd i s).acc = s.acc := rfl
@[simp] theorem completeCmd_len (i : Instr) (s : State) : (completeCmd i s).len = s.len := rfl
@[simp] theorem completeCmd_off (i : Instr) (s : State) : (completeCmd i s).off = s.off := rfl
@[simp] theorem completeCmd_active (i : Instr) (s : State) : (completeCmd i s).active = s.active := rfl
@[simp] theorem completeCmd_done (i : Instr) (s : State) : (completeCmd i s).done = s.done := rfl
@[simp] theorem completeCmd_dir (i : Instr) (s : State) : (completeCmd i s).dir = s.dir := rfl
@[simp] theorem completeCmd_err (i : Instr) (s : State) : (completeCmd i s).err = s.err := rfl
@[simp] theorem completeCmd_lastN (i : Instr) (s : State) : (completeCmd i s).lastN = s.lastN := rfl
@[simp] theorem completeCmd_busy (i : Instr) (s : State) : (completeCmd i s).busy = false := rfl
@[simp] theorem completeCmd_pend (i : Instr) (s : State) :
    (completeCmd i s).pend = if i = .zeroize then 0x00000000#32 else s.pend := rfl
@[simp] theorem completeCmd_prog (i : Instr) (s : State) : (completeCmd i s).prog = s.prog := rfl
@[simp] theorem completeCmd_sched (i : Instr) (s : State) : (completeCmd i s).sched = s.sched := rfl
@[simp] theorem completeCmd_seen (i : Instr) (s : State) : (completeCmd i s).seen = s.seen := rfl

/-! logRead -/

@[simp] theorem logRead_key (o : Nat) (v : Word) (s : State) : (logRead o v s).key = s.key := rfl
@[simp] theorem logRead_rk (o : Nat) (v : Word) (s : State) : (logRead o v s).rk = s.rk := rfl
@[simp] theorem logRead_kv (o : Nat) (v : Word) (s : State) : (logRead o v s).kv = s.kv := rfl
@[simp] theorem logRead_din (o : Nat) (v : Word) (s : State) : (logRead o v s).din = s.din := rfl
@[simp] theorem logRead_dout (o : Nat) (v : Word) (s : State) : (logRead o v s).dout = s.dout := rfl
@[simp] theorem logRead_ctr (o : Nat) (v : Word) (s : State) : (logRead o v s).ctr = s.ctr := rfl
@[simp] theorem logRead_acc (o : Nat) (v : Word) (s : State) : (logRead o v s).acc = s.acc := rfl
@[simp] theorem logRead_len (o : Nat) (v : Word) (s : State) : (logRead o v s).len = s.len := rfl
@[simp] theorem logRead_off (o : Nat) (v : Word) (s : State) : (logRead o v s).off = s.off := rfl
@[simp] theorem logRead_active (o : Nat) (v : Word) (s : State) : (logRead o v s).active = s.active := rfl
@[simp] theorem logRead_done (o : Nat) (v : Word) (s : State) : (logRead o v s).done = s.done := rfl
@[simp] theorem logRead_dir (o : Nat) (v : Word) (s : State) : (logRead o v s).dir = s.dir := rfl
@[simp] theorem logRead_err (o : Nat) (v : Word) (s : State) : (logRead o v s).err = s.err := rfl
@[simp] theorem logRead_lastN (o : Nat) (v : Word) (s : State) : (logRead o v s).lastN = s.lastN := rfl
@[simp] theorem logRead_busy (o : Nat) (v : Word) (s : State) : (logRead o v s).busy = s.busy := rfl
@[simp] theorem logRead_pend (o : Nat) (v : Word) (s : State) : (logRead o v s).pend = s.pend := rfl
@[simp] theorem logRead_prog (o : Nat) (v : Word) (s : State) : (logRead o v s).prog = s.prog := rfl
@[simp] theorem logRead_sched (o : Nat) (v : Word) (s : State) : (logRead o v s).sched = s.sched := rfl
@[simp] theorem logRead_seen (o : Nat) (v : Word) (s : State) : (logRead o v s).seen = ⟨o, v⟩ :: s.seen := rfl

/-! takeTurn -/

@[simp] theorem takeTurn_key (s : State) : (takeTurn s).key = s.key := rfl
@[simp] theorem takeTurn_rk (s : State) : (takeTurn s).rk = s.rk := rfl
@[simp] theorem takeTurn_kv (s : State) : (takeTurn s).kv = s.kv := rfl
@[simp] theorem takeTurn_din (s : State) : (takeTurn s).din = s.din := rfl
@[simp] theorem takeTurn_dout (s : State) : (takeTurn s).dout = s.dout := rfl
@[simp] theorem takeTurn_ctr (s : State) : (takeTurn s).ctr = s.ctr := rfl
@[simp] theorem takeTurn_acc (s : State) : (takeTurn s).acc = s.acc := rfl
@[simp] theorem takeTurn_len (s : State) : (takeTurn s).len = s.len := rfl
@[simp] theorem takeTurn_off (s : State) : (takeTurn s).off = s.off := rfl
@[simp] theorem takeTurn_active (s : State) : (takeTurn s).active = s.active := rfl
@[simp] theorem takeTurn_done (s : State) : (takeTurn s).done = s.done := rfl
@[simp] theorem takeTurn_dir (s : State) : (takeTurn s).dir = s.dir := rfl
@[simp] theorem takeTurn_err (s : State) : (takeTurn s).err = s.err := rfl
@[simp] theorem takeTurn_lastN (s : State) : (takeTurn s).lastN = s.lastN := rfl
@[simp] theorem takeTurn_busy (s : State) : (takeTurn s).busy = s.busy := rfl
@[simp] theorem takeTurn_pend (s : State) : (takeTurn s).pend = s.pend := rfl
@[simp] theorem takeTurn_prog (s : State) : (takeTurn s).prog = s.prog := rfl
@[simp] theorem takeTurn_sched (s : State) : (takeTurn s).sched = s.sched.tail := rfl
@[simp] theorem takeTurn_seen (s : State) : (takeTurn s).seen = s.seen := rfl

/-! clearRecord -/

@[simp] theorem clearRecord_key (P : Params) (s : State) : (clearRecord P s).key = (State.resetWith P).key := rfl
@[simp] theorem clearRecord_rk (P : Params) (s : State) : (clearRecord P s).rk = (State.resetWith P).rk := rfl
@[simp] theorem clearRecord_kv (P : Params) (s : State) : (clearRecord P s).kv = (State.resetWith P).kv := rfl
@[simp] theorem clearRecord_din (P : Params) (s : State) : (clearRecord P s).din = (State.resetWith P).din := rfl
@[simp] theorem clearRecord_dout (P : Params) (s : State) : (clearRecord P s).dout = (State.resetWith P).dout := rfl
@[simp] theorem clearRecord_ctr (P : Params) (s : State) : (clearRecord P s).ctr = (State.resetWith P).ctr := rfl
@[simp] theorem clearRecord_acc (P : Params) (s : State) : (clearRecord P s).acc = (State.resetWith P).acc := rfl
@[simp] theorem clearRecord_len (P : Params) (s : State) : (clearRecord P s).len = (State.resetWith P).len := rfl
@[simp] theorem clearRecord_off (P : Params) (s : State) : (clearRecord P s).off = (State.resetWith P).off := rfl
@[simp] theorem clearRecord_active (P : Params) (s : State) : (clearRecord P s).active = (State.resetWith P).active := rfl
@[simp] theorem clearRecord_done (P : Params) (s : State) : (clearRecord P s).done = (State.resetWith P).done := rfl
@[simp] theorem clearRecord_dir (P : Params) (s : State) : (clearRecord P s).dir = (State.resetWith P).dir := rfl
@[simp] theorem clearRecord_err (P : Params) (s : State) : (clearRecord P s).err = (State.resetWith P).err := rfl
@[simp] theorem clearRecord_lastN (P : Params) (s : State) : (clearRecord P s).lastN = (State.resetWith P).lastN := rfl
@[simp] theorem clearRecord_busy (P : Params) (s : State) : (clearRecord P s).busy = s.busy := rfl
@[simp] theorem clearRecord_pend (P : Params) (s : State) : (clearRecord P s).pend = s.pend := rfl
@[simp] theorem clearRecord_prog (P : Params) (s : State) : (clearRecord P s).prog = s.prog := rfl
@[simp] theorem clearRecord_sched (P : Params) (s : State) : (clearRecord P s).sched = s.sched := rfl
@[simp] theorem clearRecord_seen (P : Params) (s : State) : (clearRecord P s).seen = s.seen := rfl

/-! resetInput -/

@[simp] theorem resetInput_key (P : Params) (s : State) : (resetInput P s).key = (State.resetWith P).key := rfl
@[simp] theorem resetInput_rk (P : Params) (s : State) : (resetInput P s).rk = (State.resetWith P).rk := rfl
@[simp] theorem resetInput_kv (P : Params) (s : State) : (resetInput P s).kv = (State.resetWith P).kv := rfl
@[simp] theorem resetInput_din (P : Params) (s : State) : (resetInput P s).din = (State.resetWith P).din := rfl
@[simp] theorem resetInput_dout (P : Params) (s : State) : (resetInput P s).dout = (State.resetWith P).dout := rfl
@[simp] theorem resetInput_ctr (P : Params) (s : State) : (resetInput P s).ctr = (State.resetWith P).ctr := rfl
@[simp] theorem resetInput_acc (P : Params) (s : State) : (resetInput P s).acc = (State.resetWith P).acc := rfl
@[simp] theorem resetInput_len (P : Params) (s : State) : (resetInput P s).len = (State.resetWith P).len := rfl
@[simp] theorem resetInput_off (P : Params) (s : State) : (resetInput P s).off = (State.resetWith P).off := rfl
@[simp] theorem resetInput_active (P : Params) (s : State) : (resetInput P s).active = (State.resetWith P).active := rfl
@[simp] theorem resetInput_done (P : Params) (s : State) : (resetInput P s).done = (State.resetWith P).done := rfl
@[simp] theorem resetInput_dir (P : Params) (s : State) : (resetInput P s).dir = (State.resetWith P).dir := rfl
@[simp] theorem resetInput_err (P : Params) (s : State) : (resetInput P s).err = (State.resetWith P).err := rfl
@[simp] theorem resetInput_lastN (P : Params) (s : State) : (resetInput P s).lastN = (State.resetWith P).lastN := rfl
@[simp] theorem resetInput_busy (P : Params) (s : State) : (resetInput P s).busy = (State.resetWith P).busy := rfl
@[simp] theorem resetInput_pend (P : Params) (s : State) : (resetInput P s).pend = (State.resetWith P).pend := rfl
@[simp] theorem resetInput_prog (P : Params) (s : State) : (resetInput P s).prog = s.prog := rfl
@[simp] theorem resetInput_sched (P : Params) (s : State) : (resetInput P s).sched = s.sched := rfl
@[simp] theorem resetInput_seen (P : Params) (s : State) : (resetInput P s).seen = s.seen := rfl

/-! startFlags -/

@[simp] theorem startFlags_key (s : State) : (startFlags s).key = s.key := by unfold startFlags; split <;> rfl
@[simp] theorem startFlags_rk (s : State) : (startFlags s).rk = s.rk := by unfold startFlags; split <;> rfl
@[simp] theorem startFlags_kv (s : State) : (startFlags s).kv = s.kv := by unfold startFlags; split <;> rfl
@[simp] theorem startFlags_din (s : State) : (startFlags s).din = s.din := by unfold startFlags; split <;> rfl
@[simp] theorem startFlags_dout (s : State) : (startFlags s).dout = s.dout := by unfold startFlags; split <;> rfl
@[simp] theorem startFlags_ctr (s : State) : (startFlags s).ctr = s.ctr := by unfold startFlags; split <;> rfl
@[simp] theorem startFlags_acc (s : State) : (startFlags s).acc = s.acc := by unfold startFlags; split <;> rfl
@[simp] theorem startFlags_len (s : State) : (startFlags s).len = s.len := by unfold startFlags; split <;> rfl
@[simp] theorem startFlags_off (s : State) : (startFlags s).off = s.off := by unfold startFlags; split <;> rfl
@[simp] theorem startFlags_dir (s : State) : (startFlags s).dir = s.dir := by unfold startFlags; split <;> rfl
@[simp] theorem startFlags_err (s : State) : (startFlags s).err = s.err := by unfold startFlags; split <;> rfl
@[simp] theorem startFlags_lastN (s : State) : (startFlags s).lastN = s.lastN := by unfold startFlags; split <;> rfl
@[simp] theorem startFlags_busy (s : State) : (startFlags s).busy = s.busy := by unfold startFlags; split <;> rfl
@[simp] theorem startFlags_pend (s : State) : (startFlags s).pend = s.pend := by unfold startFlags; split <;> rfl
@[simp] theorem startFlags_prog (s : State) : (startFlags s).prog = s.prog := by unfold startFlags; split <;> rfl
@[simp] theorem startFlags_sched (s : State) : (startFlags s).sched = s.sched := by unfold startFlags; split <;> rfl
@[simp] theorem startFlags_seen (s : State) : (startFlags s).seen = s.seen := by unfold startFlags; split <;> rfl

@[simp] theorem startFlags_active (s : State) : (startFlags s).active = decide (s.len ≠ 0) := by
  unfold startFlags; split <;> simp_all

@[simp] theorem startFlags_done (s : State) : (startFlags s).done = decide (s.len = 0) := by
  unfold startFlags; split <;> simp_all

/-! endOfUnitFlags -/

@[simp] theorem endOfUnitFlags_key (s : State) : (endOfUnitFlags s).key = s.key := by unfold endOfUnitFlags; split <;> rfl
@[simp] theorem endOfUnitFlags_rk (s : State) : (endOfUnitFlags s).rk = s.rk := by unfold endOfUnitFlags; split <;> rfl
@[simp] theorem endOfUnitFlags_kv (s : State) : (endOfUnitFlags s).kv = s.kv := by unfold endOfUnitFlags; split <;> rfl
@[simp] theorem endOfUnitFlags_din (s : State) : (endOfUnitFlags s).din = s.din := by unfold endOfUnitFlags; split <;> rfl
@[simp] theorem endOfUnitFlags_dout (s : State) : (endOfUnitFlags s).dout = s.dout := by unfold endOfUnitFlags; split <;> rfl
@[simp] theorem endOfUnitFlags_ctr (s : State) : (endOfUnitFlags s).ctr = s.ctr := by unfold endOfUnitFlags; split <;> rfl
@[simp] theorem endOfUnitFlags_acc (s : State) : (endOfUnitFlags s).acc = s.acc := by unfold endOfUnitFlags; split <;> rfl
@[simp] theorem endOfUnitFlags_len (s : State) : (endOfUnitFlags s).len = s.len := by unfold endOfUnitFlags; split <;> rfl
@[simp] theorem endOfUnitFlags_off (s : State) : (endOfUnitFlags s).off = s.off := by unfold endOfUnitFlags; split <;> rfl
@[simp] theorem endOfUnitFlags_dir (s : State) : (endOfUnitFlags s).dir = s.dir := by unfold endOfUnitFlags; split <;> rfl
@[simp] theorem endOfUnitFlags_err (s : State) : (endOfUnitFlags s).err = s.err := by unfold endOfUnitFlags; split <;> rfl
@[simp] theorem endOfUnitFlags_lastN (s : State) : (endOfUnitFlags s).lastN = s.lastN := by unfold endOfUnitFlags; split <;> rfl
@[simp] theorem endOfUnitFlags_busy (s : State) : (endOfUnitFlags s).busy = s.busy := by unfold endOfUnitFlags; split <;> rfl
@[simp] theorem endOfUnitFlags_pend (s : State) : (endOfUnitFlags s).pend = s.pend := by unfold endOfUnitFlags; split <;> rfl
@[simp] theorem endOfUnitFlags_prog (s : State) : (endOfUnitFlags s).prog = s.prog := by unfold endOfUnitFlags; split <;> rfl
@[simp] theorem endOfUnitFlags_sched (s : State) : (endOfUnitFlags s).sched = s.sched := by unfold endOfUnitFlags; split <;> rfl
@[simp] theorem endOfUnitFlags_seen (s : State) : (endOfUnitFlags s).seen = s.seen := by unfold endOfUnitFlags; split <;> rfl

@[simp] theorem endOfUnitFlags_active (s : State) :
    (endOfUnitFlags s).active = if s.off = s.len then false else s.active := by
  unfold endOfUnitFlags; split <;> simp_all

@[simp] theorem endOfUnitFlags_done (s : State) :
    (endOfUnitFlags s).done = if s.off = s.len then true else s.done := by
  unfold endOfUnitFlags; split <;> simp_all

/-! The reset record -/

@[simp] theorem resetWith_key (P : Params) : (State.resetWith P).key = zeroBytes 32 := rfl
@[simp] theorem resetWith_rk (P : Params) : (State.resetWith P).rk = zeroRoundKeys := rfl
@[simp] theorem resetWith_kv (P : Params) : (State.resetWith P).kv = false := rfl
@[simp] theorem resetWith_din (P : Params) : (State.resetWith P).din = zeroBytes 16 := rfl
@[simp] theorem resetWith_dout (P : Params) : (State.resetWith P).dout = zeroBytes 16 := rfl
@[simp] theorem resetWith_ctr (P : Params) : (State.resetWith P).ctr = zeroBytes 16 := rfl
@[simp] theorem resetWith_acc (P : Params) : (State.resetWith P).acc = P.csumInit := rfl
@[simp] theorem resetWith_len (P : Params) : (State.resetWith P).len = 0 := rfl
@[simp] theorem resetWith_off (P : Params) : (State.resetWith P).off = 0 := rfl
@[simp] theorem resetWith_active (P : Params) : (State.resetWith P).active = false := rfl
@[simp] theorem resetWith_done (P : Params) : (State.resetWith P).done = false := rfl
@[simp] theorem resetWith_dir (P : Params) : (State.resetWith P).dir = .encrypt := rfl
@[simp] theorem resetWith_err (P : Params) : (State.resetWith P).err = 0 := rfl
@[simp] theorem resetWith_lastN (P : Params) : (State.resetWith P).lastN = 0 := rfl
@[simp] theorem resetWith_busy (P : Params) : (State.resetWith P).busy = false := rfl
@[simp] theorem resetWith_pend (P : Params) : (State.resetWith P).pend = 0x00000000#32 := rfl
@[simp] theorem resetWith_prog (P : Params) : (State.resetWith P).prog = [] := rfl
@[simp] theorem resetWith_sched (P : Params) : (State.resetWith P).sched = [] := rfl
@[simp] theorem resetWith_seen (P : Params) : (State.resetWith P).seen = [] := rfl

/-! withFetchWord -/

@[simp] theorem withFetchWord_key (s : State) (nbits w : Nat) :
    (s.withFetchWord nbits w).key = s.key := rfl
@[simp] theorem withFetchWord_rk (s : State) (nbits w : Nat) :
    (s.withFetchWord nbits w).rk = s.rk := rfl
@[simp] theorem withFetchWord_kv (s : State) (nbits w : Nat) :
    (s.withFetchWord nbits w).kv = s.kv := rfl
@[simp] theorem withFetchWord_din (s : State) (nbits w : Nat) :
    (s.withFetchWord nbits w).din = s.din := rfl
@[simp] theorem withFetchWord_dout (s : State) (nbits w : Nat) :
    (s.withFetchWord nbits w).dout = s.dout := rfl
@[simp] theorem withFetchWord_ctr (s : State) (nbits w : Nat) :
    (s.withFetchWord nbits w).ctr = s.ctr := rfl
@[simp] theorem withFetchWord_acc (s : State) (nbits w : Nat) :
    (s.withFetchWord nbits w).acc = s.acc := rfl
@[simp] theorem withFetchWord_len (s : State) (nbits w : Nat) :
    (s.withFetchWord nbits w).len = s.len := rfl
@[simp] theorem withFetchWord_off (s : State) (nbits w : Nat) :
    (s.withFetchWord nbits w).off = s.off := rfl
@[simp] theorem withFetchWord_active (s : State) (nbits w : Nat) :
    (s.withFetchWord nbits w).active = s.active := rfl
@[simp] theorem withFetchWord_done (s : State) (nbits w : Nat) :
    (s.withFetchWord nbits w).done = s.done := rfl
@[simp] theorem withFetchWord_dir (s : State) (nbits w : Nat) :
    (s.withFetchWord nbits w).dir = s.dir := rfl
@[simp] theorem withFetchWord_err (s : State) (nbits w : Nat) :
    (s.withFetchWord nbits w).err = s.err := rfl
@[simp] theorem withFetchWord_lastN (s : State) (nbits w : Nat) :
    (s.withFetchWord nbits w).lastN = s.lastN := rfl
@[simp] theorem withFetchWord_busy (s : State) (nbits w : Nat) :
    (s.withFetchWord nbits w).busy = true := rfl
@[simp] theorem withFetchWord_pend (s : State) (nbits w : Nat) :
    (s.withFetchWord nbits w).pend = tableWord nbits w := rfl
@[simp] theorem withFetchWord_prog (s : State) (nbits w : Nat) :
    (s.withFetchWord nbits w).prog = s.prog := rfl
@[simp] theorem withFetchWord_sched (s : State) (nbits w : Nat) :
    (s.withFetchWord nbits w).sched = .core :: s.sched := rfl
@[simp] theorem withFetchWord_seen (s : State) (nbits w : Nat) :
    (s.withFetchWord nbits w).seen = s.seen := rfl

end Sys2Proof.Machine
end

