-- ==== Sys2Proof/Laws/Exec.lean ====
section
/-! SUPPORT. exec's arms, one equation per instruction, and that exec always answers a next state. -/

namespace Sys2Proof.Machine

@[simp] theorem exec_nop (s : State) : exec .nop s = .next s := rfl

@[simp] theorem exec_keyExpand (s : State) :
    exec .keyExpand s = .next { s with rk := keyExpansion s.key, kv := true, key := zeroBytes 32 } := rfl

@[simp] theorem exec_blockEnc (s : State) : exec .blockEnc s = .next { s with dout := cipher s.din s.rk } := rfl

@[simp] theorem exec_blockDec (s : State) : exec .blockDec s = .next { s with dout := invCipher s.din s.rk } := rfl

@[simp] theorem exec_streamStart (d : Direction) (s : State) :
    exec (.streamStart d) s = .next (streamStart params d s) := rfl

@[simp] theorem exec_streamBlock (s : State) : exec .streamBlock s = .next (streamBlock params s) := rfl

@[simp] theorem exec_streamAbort (s : State) :
    exec .streamAbort s = .next { s with active := false, done := false } := rfl

@[simp] theorem exec_csumReset (s : State) : exec .csumReset s = .next (csumReset params s) := rfl

@[simp] theorem exec_csumAbsorb (b : Byte) (s : State) :
    exec (.csumAbsorb b) s = .next (csumAbsorb params b s) := rfl

@[simp] theorem exec_zeroize (s : State) : exec .zeroize s = .next (clearRecord params s) := rfl

@[simp] theorem exec_errClear (s : State) : exec .errClear s = .next (clearErr s) := rfl

/-- The state the core step of `i` leaves, before BUSY <- 0. -/
def execState (i : Instr) (s : State) : State :=
  match exec i s with
  | .next t => t
  | .fault _ => s
  | .refused _ => s

theorem exec_eq_next (i : Instr) (s : State) : exec i s = .next (execState i s) := by
  cases i <;> rfl

theorem exec_next_iff {i : Instr} {s t : State} : exec i s = .next t ↔ t = execState i s := by
  rw [exec_eq_next]
  constructor
  · intro h; injection h with h; exact h.symm
  · intro h; rw [h]

/-! The state each command leaves. -/

@[simp] theorem execState_nop (s : State) : execState .nop s = s := rfl

@[simp] theorem execState_keyExpand (s : State) :
    execState .keyExpand s = { s with rk := keyExpansion s.key, kv := true, key := zeroBytes 32 } := rfl

@[simp] theorem execState_blockEnc (s : State) : execState .blockEnc s = { s with dout := cipher s.din s.rk } := rfl

@[simp] theorem execState_blockDec (s : State) :
    execState .blockDec s = { s with dout := invCipher s.din s.rk } := rfl

@[simp] theorem execState_streamStart (d : Direction) (s : State) :
    execState (.streamStart d) s = streamStart params d s := rfl

@[simp] theorem execState_streamBlock (s : State) : execState .streamBlock s = streamBlock params s := rfl

@[simp] theorem execState_streamAbort (s : State) :
    execState .streamAbort s = { s with active := false, done := false } := rfl

@[simp] theorem execState_csumReset (s : State) : execState .csumReset s = csumReset params s := rfl

@[simp] theorem execState_csumAbsorb (b : Byte) (s : State) :
    execState (.csumAbsorb b) s = csumAbsorb params b s := rfl

@[simp] theorem execState_zeroize (s : State) : execState .zeroize s = clearRecord params s := rfl

@[simp] theorem execState_errClear (s : State) : execState .errClear s = clearErr s := rfl

end Sys2Proof.Machine
end

