-- ==== Sys2Proof/Laws/Gf.lean ====
section
/-! SUPPORT. The field operations: xtime bit by bit, and that both products distribute over the sum of bytes. -/

namespace Sys2Proof.Machine

/-- The bits of `xtime`. -/
theorem xtime_bits : ∀ y : Byte,
    (xtime y).getLsbD 0 = y.getLsbD 7 ∧ (xtime y).getLsbD 1 = (y.getLsbD 0 ^^ y.getLsbD 7) ∧
    (xtime y).getLsbD 2 = y.getLsbD 1 ∧ (xtime y).getLsbD 3 = (y.getLsbD 2 ^^ y.getLsbD 7) ∧
    (xtime y).getLsbD 4 = (y.getLsbD 3 ^^ y.getLsbD 7) ∧ (xtime y).getLsbD 5 = y.getLsbD 4 ∧
    (xtime y).getLsbD 6 = y.getLsbD 5 ∧ (xtime y).getLsbD 7 = y.getLsbD 6 := by decide

theorem xtime_xor (a b : Byte) : xtime (a ^^^ b) = xtime a ^^^ xtime b := by
  apply BitVec.eq_of_getLsbD_eq
  intro i hi
  rw [BitVec.getLsbD_xor]
  obtain ⟨a0, a1, a2, a3, a4, a5, a6, a7⟩ := xtime_bits a
  obtain ⟨b0, b1, b2, b3, b4, b5, b6, b7⟩ := xtime_bits b
  obtain ⟨e0, e1, e2, e3, e4, e5, e6, e7⟩ := xtime_bits (a ^^^ b)
  simp only [BitVec.getLsbD_xor] at e0 e1 e2 e3 e4 e5 e6 e7
  interval_cases i <;> simp only [*]
  all_goals (generalize a.getLsbD 7 = p; generalize b.getLsbD 7 = q)
  · generalize a.getLsbD 0 = x; generalize b.getLsbD 0 = y; revert p q x y; decide
  · generalize a.getLsbD 2 = x; generalize b.getLsbD 2 = y; revert p q x y; decide
  · generalize a.getLsbD 3 = x; generalize b.getLsbD 3 = y; revert p q x y; decide

theorem gmulBits_xor (n : Nat) : ∀ (m x y : Byte),
    gmulBits n m (x ^^^ y) = gmulBits n m x ^^^ gmulBits n m y := by
  induction n with
  | zero => intro m x y; simp [gmulBits]
  | succ n ih =>
    intro m x y
    simp only [gmulBits, xtime_xor, ih]
    split
    · ac_rfl
    · simp

/-- A product distributes over the sum of bytes, in its second factor. -/
theorem gmul_xor (m x y : Byte) : gmul m (x ^^^ y) = gmul m x ^^^ gmul m y := gmulBits_xor 8 m x y

theorem gmul_one : ∀ a : Byte, gmul 1#8 a = a := by decide +kernel

end Sys2Proof.Machine
end

