-- ==== Sys2Proof/Laws/Port.lean ====
section
/-! SUPPORT. What a port access can do: one inversion lemma per shared operation. -/

namespace Sys2Proof.Machine

theorem raiseErr_eq (e : ErrCode) (s : State) :
    raiseErr e s = { s with err := if s.err = 0 then errValue e else s.err } := by
  unfold raiseErr; split <;> simp_all

theorem portAccess_iff (off size : Nat) :
    portAccess off size = true ↔ size = 4 ∧ off % 4 = 0 ∧ off ≤ 0x7C := by
  simp [portAccess, and_assoc]

/-- What a command is checked against is ACTIVE, KV and DONE alone. -/
theorem commandError_congr (i : Instr) {s t : State} (h1 : t.active = s.active) (h2 : t.kv = s.kv)
    (h3 : t.done = s.done) : commandError i t = commandError i s := by
  cases i <;> simp [commandError, needsNoPass, needsNoPassAndKey, needsPass, h1, h2, h3]

theorem errValue_bounds (e : ErrCode) : errValue e ≠ 0 ∧ errValue e ≤ 5#4 := by
  cases e <;> decide

/-- A CMD write either reports one error, or accepts the word, or is held back. -/
theorem commandWrite_cases (v : Word) (s : State) :
    (∃ e, s.err = 0 ∧ commandWrite v s = raiseErr e s) ∨
    (∃ i, decode v = .ok i ∧ (s.err = 0 ∧ commandError i s = none ∨ s.err ≠ 0 ∧ passesStickyHold i = true) ∧
      commandWrite v s = acceptCmd v s) ∨
    (s.err ≠ 0 ∧ commandWrite v s = s) := by
  unfold commandWrite
  by_cases he : s.err = 0
  · rw [if_neg (not_not.mpr he)]
    cases hd : decode v with
    | error e => exact .inl ⟨.illegal, he, rfl⟩
    | ok i =>
      simp only [commandCheck]
      cases hc : commandError i s with
      | some e => exact .inl ⟨e, he, rfl⟩
      | none => exact .inr (.inl ⟨i, rfl, .inl ⟨he, hc⟩, rfl⟩)
  · rw [if_pos he]
    cases hd : decode v with
    | error e => exact .inr (.inr ⟨he, rfl⟩)
    | ok i =>
      cases hp : passesStickyHold i with
      | true => exact .inr (.inl ⟨i, rfl, .inr ⟨he, hp⟩, by simp [hp]⟩)
      | false => exact .inr (.inr ⟨he, by simp [hp]⟩)

/-- A command that passes the sticky hold has no condition of its own. -/
theorem commandError_of_passesStickyHold {i : Instr} (h : passesStickyHold i = true) (s : State) :
    commandError i s = none := by
  cases i <;> first | rfl | cases h

/-- A write while BUSY = 0 reports one error, changes nothing, stores to KEY, DIN or LEN, or accepts a command. -/
theorem idleWrite_cases (r : Reg) (v : Word) (s : State) :
    (∃ e, idleWrite r v s = raiseErr e s) ∨ idleWrite r v s = s ∨
    (∃ k, r = .key k ∧ idleWrite r v s = { s with key := setLaneWord (n := 8) s.key k v }) ∨
    (∃ k, r = .din k ∧ idleWrite r v s = { s with din := setLaneWord (n := 4) s.din k v }) ∨
    (s.active = false ∧ (r = .lenLo ∨ r = .lenHi) ∧ ∃ l, idleWrite r v s = { s with len := l }) ∨
    (r = .cmd ∧ ∃ i, decode v = .ok i ∧ commandError i s = none ∧ idleWrite r v s = acceptCmd v s) := by
  have hlen : ∀ l, lenWrite l s = raiseErr .state s ∨ s.active = false ∧ lenWrite l s = { s with len := l } := by
    intro l
    by_cases ha : s.active = true
    · exact .inl (if_pos ha)
    · exact .inr ⟨by simpa using ha, if_neg ha⟩
  cases r with
  | cmd =>
    rcases commandWrite_cases v s with ⟨e, -, h⟩ | ⟨i, hd, hc, h⟩ | ⟨-, h⟩
    · exact .inl ⟨e, h⟩
    · refine .inr (.inr (.inr (.inr (.inr ⟨rfl, i, hd, ?_, h⟩))))
      rcases hc with ⟨-, h⟩ | ⟨-, h⟩
      · exact h
      · exact commandError_of_passesStickyHold h s
    · exact .inr (.inl h)
  | key k => exact .inr (.inr (.inl ⟨k, rfl, rfl⟩))
  | din k => exact .inr (.inr (.inr (.inl ⟨k, rfl, rfl⟩)))
  | lenLo =>
    rcases hlen (setLoHalf s.len v) with h | ⟨ha, h⟩
    · exact .inl ⟨.state, h⟩
    · exact .inr (.inr (.inr (.inr (.inl ⟨ha, .inl rfl, _, h⟩))))
  | lenHi =>
    rcases hlen (setHiHalf s.len v) with h | ⟨ha, h⟩
    · exact .inl ⟨.state, h⟩
    · exact .inr (.inr (.inr (.inr (.inl ⟨ha, .inr rfl, _, h⟩))))
  | status => exact .inr (.inl rfl)
  | dout k => exact .inr (.inl rfl)
  | ctr k => exact .inr (.inl rfl)
  | csum => exact .inr (.inl rfl)
  | offLo => exact .inr (.inl rfl)
  | offHi => exact .inr (.inl rfl)
  | reserved k => exact .inr (.inl rfl)

/-- A register write reports one error, or is a write while BUSY = 0. -/
theorem regWrite_cases (r : Reg) (v : Word) (s : State) :
    (s.busy = true ∧ regWrite r v s = raiseErr .busy s) ∨ (s.busy = false ∧ regWrite r v s = idleWrite r v s) := by
  by_cases hb : s.busy = true
  · exact .inl ⟨hb, if_pos hb⟩
  · exact .inr ⟨by simpa using hb, if_neg hb⟩

/-- A host statement that answers a next state read a register, wrote one, polled STATUS or asserted reset. -/
theorem hostAct_cases {P : Params} {st : HostStmt} {s t : State} (h : hostAct P st s = .next t) :
    (∃ off size r, st = .read off size ∧ regAt off size = some r ∧ t = logRead off (regRead P r s) s) ∨
    (∃ off size v r, st = .write off size v ∧ regAt off size = some r ∧ t = regWrite r v s) ∨
    (st = .wait ∧ t = { logRead 0x04 (status s) s with prog := if s.busy then .wait :: s.prog else s.prog }) ∨
    (st = .assertReset ∧ t = resetInput P s) := by
  cases st with
  | read off size =>
    simp only [hostAct] at h
    cases hr : regAt off size with
    | none => rw [hr] at h; cases h
    | some r => rw [hr] at h; injection h with h; exact .inl ⟨off, size, r, rfl, hr, h.symm⟩
  | write off size v =>
    simp only [hostAct] at h
    cases hr : regAt off size with
    | none => rw [hr] at h; cases h
    | some r => rw [hr] at h; injection h with h; exact .inr (.inl ⟨off, size, v, r, rfl, hr, h.symm⟩)
  | wait =>
    injection h with h
    refine .inr (.inr (.inl ⟨rfl, ?_⟩))
    rw [← h]
    cases hb : s.busy <;> rfl
  | assertReset => injection h with h; exact .inr (.inr (.inr ⟨rfl, h.symm⟩))

end Sys2Proof.Machine
end

