-- ==== Sys2Proof/Laws/Step.lean ====
section
/-! SUPPORT. What a step can do. -/

namespace Sys2Proof.Machine

@[simp] theorem mover_takeTurn_nil {s : State} (h : s.sched = []) : takeTurn s = s := by
  cases s; simp_all [takeTurn]

theorem mover_cons {s : State} {a : Agent} {r : List Agent} (h : s.sched = a :: r) : mover s = a := by
  simp [mover, h]

theorem mover_nil {s : State} (h : s.sched = []) : mover s = if s.busy then .core else .host := by
  simp [mover, h]

theorem move_core (P : Params) (run : Run) {s : State} (h : mover s = .core) :
    move P run s = coreTurn run (takeTurn s) := by
  simp [move, h]

theorem move_host (P : Params) (run : Run) {s : State} (h : mover s = .host) :
    move P run s = hostTurn P (takeTurn s) := by
  simp [move, h]

theorem step_core {s : State} (h : mover s = .core) : step s = coreTurn exec (takeTurn s) := move_core params exec h

theorem step_host {s : State} (h : mover s = .host) : step s = hostTurn params (takeTurn s) := move_host params exec h

/-- A move that answers a next state is a turn that passes, a core step, or one host statement. -/
theorem move_cases {P : Params} {run : Run} {s t : State} (h : move P run s = .next t) :
    t = takeTurn s ∨
    (mover s = .core ∧ s.busy = true ∧
      ∃ i u, decode s.pend = .ok i ∧ run i (takeTurn s) = .next u ∧ t = completeCmd i u) ∨
    (mover s = .host ∧ ∃ st rest, s.prog = st :: rest ∧ hostAct P st { takeTurn s with prog := rest } = .next t) := by
  cases hm : mover s with
  | core =>
    rw [move_core P run hm] at h
    unfold coreTurn at h
    split at h
    · rename_i hb
      unfold coreStep at h
      split at h
      · rename_i i hd
        cases hr : run i (takeTurn s) with
        | next u =>
          rw [hr] at h
          injection h with h
          exact .inr (.inl ⟨rfl, by simpa using hb, i, u, by simpa using hd, hr, h.symm⟩)
        | fault f => rw [hr] at h; cases h
        | refused r => rw [hr] at h; cases h
      · cases h
    · injection h with h; exact .inl h.symm
  | host =>
    rw [move_host P run hm] at h
    unfold hostTurn at h
    split at h
    · injection h with h; exact .inl h.symm
    · rename_i st rest hp
      exact .inr (.inr ⟨rfl, st, rest, by simpa using hp, h⟩)

/-- A step of the default instance that answers a next state: its core step leaves what `exec` leaves. -/
theorem step_cases {s t : State} (h : step s = .next t) :
    t = takeTurn s ∨
    (mover s = .core ∧ s.busy = true ∧ ∃ i, decode s.pend = .ok i ∧ t = completeCmd i (execState i (takeTurn s))) ∨
    (mover s = .host ∧ ∃ st rest, s.prog = st :: rest ∧ hostAct params st { takeTurn s with prog := rest } = .next t) := by
  rcases move_cases h with h | ⟨hm, hb, i, u, hd, hu, h⟩ | h
  · exact .inl h
  · exact .inr (.inl ⟨hm, hb, i, hd, by rw [h, exec_next_iff.mp hu]⟩)
  · exact .inr (.inr h)

end Sys2Proof.Machine
end

