-- ==== Sys2Proof/Laws/Instance.lean ====
section
/-! SUPPORT. What a command and a step of any instance of the parameters can do. -/

namespace Sys2Proof.Machine

@[simp] theorem execWith_nop (P : Params) (s : State) : execWith P .nop s = .next s := rfl

@[simp] theorem execWith_keyExpand (P : Params) (s : State) :
    execWith P .keyExpand s = .next { s with rk := keyExpansion s.key, kv := true, key := zeroBytes 32 } := rfl

@[simp] theorem execWith_blockEnc (P : Params) (s : State) :
    execWith P .blockEnc s = .next { s with dout := cipher s.din s.rk } := rfl

@[simp] theorem execWith_blockDec (P : Params) (s : State) :
    execWith P .blockDec s = .next { s with dout := invCipher s.din s.rk } := rfl

@[simp] theorem execWith_streamStart (P : Params) (d : Direction) (s : State) :
    execWith P (.streamStart d) s = .next (streamStart P d s) := rfl

@[simp] theorem execWith_streamBlock (P : Params) (s : State) :
    execWith P .streamBlock s = .next (streamBlock P s) := rfl

@[simp] theorem execWith_streamAbort (P : Params) (s : State) :
    execWith P .streamAbort s = .next { s with active := false, done := false } := rfl

@[simp] theorem execWith_csumReset (P : Params) (s : State) : execWith P .csumReset s = .next (csumReset P s) := rfl

@[simp] theorem execWith_csumAbsorb (P : Params) (b : Byte) (s : State) :
    execWith P (.csumAbsorb b) s = .next (csumAbsorb P b s) := rfl

@[simp] theorem execWith_zeroize (P : Params) (s : State) : execWith P .zeroize s = .next (clearRecord P s) := rfl

@[simp] theorem execWith_errClear (P : Params) (s : State) : execWith P .errClear s = .next (clearErr s) := rfl

/-- Every command of every instance answers a next state. -/
theorem execWith_next (P : Params) (i : Instr) (s : State) : ∃ t, execWith P i s = .next t := by
  cases i <;> exact ⟨_, rfl⟩

/-- A core step of a pending command: its effect, then its end. -/
theorem stepWith_core (P : Params) {s t : State} {i : Instr} (hm : mover s = .core) (hb : s.busy = true)
    (hd : decode s.pend = .ok i) (ht : execWith P i (takeTurn s) = .next t) :
    stepWith P s = .next (completeCmd i t) := by
  rw [stepWith, move_core P _ hm, coreTurn, if_pos (by simpa using hb), coreStep]
  simp only [takeTurn_pend, hd, ht, completeOutcome]

/-- A host move: the statement, with the turn and the statement taken. -/
theorem stepWith_host (P : Params) {s : State} {st : HostStmt} {rest : List HostStmt} (hm : mover s = .host)
    (hp : s.prog = st :: rest) : stepWith P s = hostAct P st { takeTurn s with prog := rest } := by
  rw [stepWith, move_host P _ hm, hostTurn]
  simp only [takeTurn_prog, hp]

@[simp] theorem coreWith_reset (P : Params) : (coreWith P).reset = State.resetWith P := rfl

@[simp] theorem coreWith_step (P : Params) : (coreWith P).step = stepWith P := rfl

end Sys2Proof.Machine
end

