-- ==== Sys2Proof/Laws/Operands.lean ====
section
/-! SUPPORT. The operand forms: byte lanes, halves, the unit length and the new offset. -/

namespace Sys2Proof.Machine

/-- The low half of two words concatenated. -/
theorem loHalf_append (a b : Word) (h : 32 + 32 = 64) : loHalf ((a ++ b).cast h) = b := by
  ext i hi
  rw [loHalf, BitVec.getElem_extractLsb', BitVec.getLsbD_cast, BitVec.getLsbD_append]
  simp [hi]

/-- The high half of two words concatenated. -/
theorem hiHalf_append (a b : Word) (h : 32 + 32 = 64) : hiHalf ((a ++ b).cast h) = a := by
  ext i hi
  rw [hiHalf, BitVec.getElem_extractLsb', BitVec.getLsbD_cast, BitVec.getLsbD_append]
  simp [hi]

@[simp] theorem loHalf_setLoHalf (x : DWord) (v : Word) : loHalf (setLoHalf x v) = v := loHalf_append _ _ _

@[simp] theorem hiHalf_setLoHalf (x : DWord) (v : Word) : hiHalf (setLoHalf x v) = hiHalf x := hiHalf_append _ _ _

@[simp] theorem loHalf_setHiHalf (x : DWord) (v : Word) : loHalf (setHiHalf x v) = loHalf x := loHalf_append _ _ _

@[simp] theorem hiHalf_setHiHalf (x : DWord) (v : Word) : hiHalf (setHiHalf x v) = v := hiHalf_append _ _ _

/-- Byte `k` of four bytes concatenated, the last one in the low bits. -/
theorem concat4 (a b c d : Byte) (h : 8+8+8+8 = 32) (k : Fin 4) :
    ((a ++ b ++ c ++ d).cast h).extractLsb' (8 * k.val) 8 = #v[d, c, b, a][k] := by
  ext i hi
  rw [BitVec.getElem_extractLsb', BitVec.getLsbD_cast, BitVec.getLsbD_append, BitVec.getLsbD_append, BitVec.getLsbD_append, BitVec.getElem_eq_testBit_toNat, ← BitVec.getLsbD]
  obtain ⟨k, hk⟩ := k
  rcases (by omega : k = 0 ∨ k = 1 ∨ k = 2 ∨ k = 3) with rfl | rfl | rfl | rfl
  · simp [hi]
  · simp [hi]
  · simp [hi, show ¬ (16 + i < 8) by omega, show 16 + i - 8 = 8 + i by omega]
  · simp [hi, show ¬ (24 + i < 8) by omega, show 24 + i - 8 = 16 + i by omega, show ¬ (16 + i < 8) by omega, show 16 + i - 8 = 8 + i by omega]

/-- Byte `b` of a lane word is byte 4k + b of the sequence (R23). -/
theorem laneWord_byte {n : Nat} (x : Bytes (4 * n)) (k : Fin n) (b : Fin 4) :
    (laneWord x k).extractLsb' (8 * b.val) 8 = x[4 * k.val + b.val] := by
  rw [laneWord, concat4]
  obtain ⟨b, hb⟩ := b
  rcases (by omega : b = 0 ∨ b = 1 ∨ b = 2 ∨ b = 3) with rfl | rfl | rfl | rfl <;> rfl

/-- Unpacking the four lane words of a block gives the block (R23). -/
theorem unpackWords_laneWord (x : Block) :
    unpackWords #v[laneWord (n := 4) x 0, laneWord (n := 4) x 1, laneWord (n := 4) x 2, laneWord (n := 4) x 3] = x := by
  have h : #v[laneWord (n := 4) x 0, laneWord (n := 4) x 1, laneWord (n := 4) x 2, laneWord (n := 4) x 3] =
      Vector.ofFn fun k : Fin 4 => laneWord (n := 4) x k := rfl
  rw [h]
  apply Vector.ext
  intro i hi
  simp only [unpackWords, Vector.getElem_ofFn]
  have hb := laneWord_byte (n := 4) x ⟨i / 4, by omega⟩ ⟨i % 4, Nat.mod_lt _ (by decide)⟩
  rw [hb]
  congr 1
  show 4 * (i / 4) + i % 4 = i
  omega

/-- Byte 4k + b after `setword(X, k, v)` is byte b of v; every other byte is as before (R64). -/
theorem setLaneWord_getElem {n : Nat} (x : Bytes (4 * n)) (k : Fin n) (v : Word) (i : Nat) (hi : i < 4 * n) :
    (setLaneWord x k v)[i] = if i / 4 = k.val then v.extractLsb' (8 * (i % 4)) 8 else x[i] := by
  have hdm : i = 4 * (i / 4) + i % 4 := by omega
  have hlt : i % 4 < 4 := Nat.mod_lt _ (by decide)
  simp only [setLaneWord, Vector.getElem_set]
  by_cases hk : i / 4 = k.val
  · rw [if_pos hk]
    rcases (by omega : i % 4 = 0 ∨ i % 4 = 1 ∨ i % 4 = 2 ∨ i % 4 = 3) with h | h | h | h <;> rw [h]
    · rw [if_neg (by omega), if_neg (by omega), if_neg (by omega), if_pos (by omega)]
    · rw [if_neg (by omega), if_neg (by omega), if_pos (by omega)]
    · rw [if_neg (by omega), if_pos (by omega)]
    · rw [if_pos (by omega)]
  · rw [if_neg hk, if_neg (by omega), if_neg (by omega), if_neg (by omega), if_neg (by omega)]

/-- A 32-bit word is its four bytes. -/
theorem word_bytes {x y : Word} (h : ∀ b : Fin 4, x.extractLsb' (8 * b.val) 8 = y.extractLsb' (8 * b.val) 8) :
    x = y := by
  apply BitVec.eq_of_getLsbD_eq
  intro i hi
  have := congrArg (fun z => z.getLsbD (i % 8)) (h ⟨i / 8, by omega⟩)
  simp only [BitVec.getLsbD_extractLsb'] at this
  have h8 : i % 8 < 8 := Nat.mod_lt _ (by decide)
  simp only [h8, decide_true, Bool.true_and] at this
  rwa [Nat.div_add_mod] at this

/-- A lane read after a lane write: the written word at its own lane, the old word at every other. -/
theorem laneWord_setLaneWord {n : Nat} (x : Bytes (4 * n)) (k j : Fin n) (v : Word) :
    laneWord (setLaneWord x k v) j = if j = k then v else laneWord x j := by
  apply word_bytes
  intro b
  rw [laneWord_byte, setLaneWord_getElem]
  have : (4 * j.val + b.val) / 4 = j.val := by omega
  have h2 : (4 * j.val + b.val) % 4 = b.val := by omega
  rw [this, h2]
  by_cases h : j = k
  · subst h; simp
  · rw [if_neg (fun hh => h (Fin.ext hh)), if_neg h, laneWord_byte]

theorem unitLen_le (len off : DWord) : unitLen len off ≤ 16 := by
  unfold unitLen; split <;> omega

theorem unitLen_eq {len off : DWord} (h : off ≤ len) : unitLen len off = min 16 (len.toNat - off.toNat) := by
  simp [unitLen, h]

theorem unitLen_pos {len off : DWord} (h : off < len) : 0 < unitLen len off := by
  have h' : off.toNat < len.toNat := BitVec.lt_def.mp h
  rw [unitLen_eq (BitVec.le_def.mpr h'.le)]
  omega

/-- Within the stream the new offset is the exact sum and does not pass LEN. -/
theorem advanceOff_toNat {len off : DWord} (h : off ≤ len) :
    (advanceOff off (unitLen len off)).toNat = off.toNat + unitLen len off ∧
      off.toNat + unitLen len off ≤ len.toNat := by
  have h' : off.toNat ≤ len.toNat := BitVec.le_def.mp h
  have hl := len.isLt
  have hn := unitLen_eq h
  have hs : off.toNat + unitLen len off ≤ len.toNat := by omega
  refine ⟨?_, hs⟩
  rw [advanceOff, if_pos (by omega), BitVec.toNat_ofNat, Nat.mod_eq_of_lt (by omega)]

end Sys2Proof.Machine
end

