-- ==== Sys2Proof/Laws/PerInstr.lean ====
section
/-! SUPPORT. Families of facts about every instruction as syntax, one lemma per constructor. -/

/-- The command word of an instruction has its reserved bits clear (30_encoding.md R82). -/
def Sys2Proof.Laws.ReservedBits.Statement (i : Sys2Proof.Instr) : Prop :=
  Sys2Proof.reservedBitsClear (Sys2Proof.encode i) = true

namespace Sys2Proof.Laws.ReservedBits

theorem nop : Statement .nop := by simp [Statement]; decide
theorem keyExpand : Statement .keyExpand := by simp [Statement]; decide
theorem blockEnc : Statement .blockEnc := by simp [Statement]; decide
theorem blockDec : Statement .blockDec := by simp [Statement]; decide
theorem streamStart : ∀ d, Statement (.streamStart d) := by
  intro d; cases d <;> simp [Statement] <;> decide
theorem streamBlock : Statement .streamBlock := by simp [Statement]; decide
theorem streamAbort : Statement .streamAbort := by simp [Statement]; decide
theorem csumReset : Statement .csumReset := by simp [Statement]; decide
theorem csumAbsorb : ∀ b, Statement (.csumAbsorb b) := by simp only [Statement]; decide
theorem zeroize : Statement .zeroize := by simp [Statement]; decide
theorem errClear : Statement .errClear := by simp [Statement]; decide

end Sys2Proof.Laws.ReservedBits
end

