-- ==== Sys2Proof/Laws/Stream.lean ====
section
/-! SUPPORT. The fields of a state after STREAM_START, STREAM_BLOCK, CSUM_RESET and CSUM_ABSORB, under any parameters: one lemma per
field. -/

namespace Sys2Proof.Machine

/-! STREAM_START -/

@[simp] theorem streamStart_key (P : Params) (d : Direction) (s : State) :
    (streamStart P d s).key = s.key := by simp only [streamStart, startFlags_key]
@[simp] theorem streamStart_rk (P : Params) (d : Direction) (s : State) :
    (streamStart P d s).rk = s.rk := by simp only [streamStart, startFlags_rk]
@[simp] theorem streamStart_kv (P : Params) (d : Direction) (s : State) :
    (streamStart P d s).kv = s.kv := by simp only [streamStart, startFlags_kv]
@[simp] theorem streamStart_din (P : Params) (d : Direction) (s : State) :
    (streamStart P d s).din = s.din := by simp only [streamStart, startFlags_din]
@[simp] theorem streamStart_dout (P : Params) (d : Direction) (s : State) :
    (streamStart P d s).dout = s.dout := by simp only [streamStart, startFlags_dout]
@[simp] theorem streamStart_ctr (P : Params) (d : Direction) (s : State) :
    (streamStart P d s).ctr = P.ctrInit s.rk := by simp only [streamStart, startFlags_ctr]
@[simp] theorem streamStart_acc (P : Params) (d : Direction) (s : State) :
    (streamStart P d s).acc = P.csumInit := by simp only [streamStart, startFlags_acc]
@[simp] theorem streamStart_len (P : Params) (d : Direction) (s : State) :
    (streamStart P d s).len = s.len := by simp only [streamStart, startFlags_len]
@[simp] theorem streamStart_off (P : Params) (d : Direction) (s : State) :
    (streamStart P d s).off = 0 := by simp only [streamStart, startFlags_off]
@[simp] theorem streamStart_active (P : Params) (d : Direction) (s : State) :
    (streamStart P d s).active = if s.len = 0 then false else true := by simp [streamStart]
@[simp] theorem streamStart_done (P : Params) (d : Direction) (s : State) :
    (streamStart P d s).done = if s.len = 0 then true else false := by simp [streamStart]
@[simp] theorem streamStart_dir (P : Params) (d : Direction) (s : State) :
    (streamStart P d s).dir = d := by simp only [streamStart, startFlags_dir]
@[simp] theorem streamStart_err (P : Params) (d : Direction) (s : State) :
    (streamStart P d s).err = s.err := by simp only [streamStart, startFlags_err]
@[simp] theorem streamStart_lastN (P : Params) (d : Direction) (s : State) :
    (streamStart P d s).lastN = 0 := by simp only [streamStart, startFlags_lastN]
@[simp] theorem streamStart_busy (P : Params) (d : Direction) (s : State) :
    (streamStart P d s).busy = s.busy := by simp only [streamStart, startFlags_busy]
@[simp] theorem streamStart_pend (P : Params) (d : Direction) (s : State) :
    (streamStart P d s).pend = s.pend := by simp only [streamStart, startFlags_pend]
@[simp] theorem streamStart_prog (P : Params) (d : Direction) (s : State) :
    (streamStart P d s).prog = s.prog := by simp only [streamStart, startFlags_prog]
@[simp] theorem streamStart_sched (P : Params) (d : Direction) (s : State) :
    (streamStart P d s).sched = s.sched := by simp only [streamStart, startFlags_sched]
@[simp] theorem streamStart_seen (P : Params) (d : Direction) (s : State) :
    (streamStart P d s).seen = s.seen := by simp only [streamStart, startFlags_seen]

/-! STREAM_BLOCK -/

@[simp] theorem streamBlock_key (P : Params) (s : State) :
    (streamBlock P s).key = s.key := by
  simp only [streamBlock, endOfUnitFlags_key]
@[simp] theorem streamBlock_rk (P : Params) (s : State) :
    (streamBlock P s).rk = s.rk := by
  simp only [streamBlock, endOfUnitFlags_rk]
@[simp] theorem streamBlock_kv (P : Params) (s : State) :
    (streamBlock P s).kv = s.kv := by
  simp only [streamBlock, endOfUnitFlags_kv]
@[simp] theorem streamBlock_din (P : Params) (s : State) :
    (streamBlock P s).din = s.din := by
  simp only [streamBlock, endOfUnitFlags_din]
@[simp] theorem streamBlock_dout (P : Params) (s : State) :
    (streamBlock P s).dout = unitOutput (unitLen s.len s.off) s.din (cipher s.ctr s.rk) := by
  simp only [streamBlock, endOfUnitFlags_dout]
@[simp] theorem streamBlock_ctr (P : Params) (s : State) :
    (streamBlock P s).ctr = inc128 s.ctr := by
  simp only [streamBlock, endOfUnitFlags_ctr]
@[simp] theorem streamBlock_acc (P : Params) (s : State) :
    (streamBlock P s).acc = absorbAll P s.acc (unitPlaintext s.dir (unitLen s.len s.off) s.din (cipher s.ctr s.rk)) := by
  simp only [streamBlock, endOfUnitFlags_acc]
@[simp] theorem streamBlock_len (P : Params) (s : State) :
    (streamBlock P s).len = s.len := by
  simp only [streamBlock, endOfUnitFlags_len]
@[simp] theorem streamBlock_off (P : Params) (s : State) :
    (streamBlock P s).off = advanceOff s.off (unitLen s.len s.off) := by
  simp only [streamBlock, endOfUnitFlags_off]
@[simp] theorem streamBlock_active (P : Params) (s : State) :
    (streamBlock P s).active = if advanceOff s.off (unitLen s.len s.off) = s.len then false else s.active := by
  simp only [streamBlock, endOfUnitFlags_active]
@[simp] theorem streamBlock_done (P : Params) (s : State) :
    (streamBlock P s).done = if advanceOff s.off (unitLen s.len s.off) = s.len then true else s.done := by
  simp only [streamBlock, endOfUnitFlags_done]
@[simp] theorem streamBlock_dir (P : Params) (s : State) :
    (streamBlock P s).dir = s.dir := by
  simp only [streamBlock, endOfUnitFlags_dir]
@[simp] theorem streamBlock_err (P : Params) (s : State) :
    (streamBlock P s).err = s.err := by
  simp only [streamBlock, endOfUnitFlags_err]
@[simp] theorem streamBlock_lastN (P : Params) (s : State) :
    (streamBlock P s).lastN = BitVec.ofNat 5 (unitLen s.len s.off) := by
  simp only [streamBlock, endOfUnitFlags_lastN]
@[simp] theorem streamBlock_busy (P : Params) (s : State) :
    (streamBlock P s).busy = s.busy := by
  simp only [streamBlock, endOfUnitFlags_busy]
@[simp] theorem streamBlock_pend (P : Params) (s : State) :
    (streamBlock P s).pend = s.pend := by
  simp only [streamBlock, endOfUnitFlags_pend]
@[simp] theorem streamBlock_prog (P : Params) (s : State) :
    (streamBlock P s).prog = s.prog := by
  simp only [streamBlock, endOfUnitFlags_prog]
@[simp] theorem streamBlock_sched (P : Params) (s : State) :
    (streamBlock P s).sched = s.sched := by
  simp only [streamBlock, endOfUnitFlags_sched]
@[simp] theorem streamBlock_seen (P : Params) (s : State) :
    (streamBlock P s).seen = s.seen := by
  simp only [streamBlock, endOfUnitFlags_seen]

/-! CSUM_RESET -/

@[simp] theorem csumReset_key (P : Params) (s : State) : (csumReset P s).key = s.key := rfl
@[simp] theorem csumReset_rk (P : Params) (s : State) : (csumReset P s).rk = s.rk := rfl
@[simp] theorem csumReset_kv (P : Params) (s : State) : (csumReset P s).kv = s.kv := rfl
@[simp] theorem csumReset_din (P : Params) (s : State) : (csumReset P s).din = s.din := rfl
@[simp] theorem csumReset_dout (P : Params) (s : State) : (csumReset P s).dout = s.dout := rfl
@[simp] theorem csumReset_ctr (P : Params) (s : State) : (csumReset P s).ctr = s.ctr := rfl
@[simp] theorem csumReset_acc (P : Params) (s : State) : (csumReset P s).acc = P.csumInit := rfl
@[simp] theorem csumReset_len (P : Params) (s : State) : (csumReset P s).len = s.len := rfl
@[simp] theorem csumReset_off (P : Params) (s : State) : (csumReset P s).off = s.off := rfl
@[simp] theorem csumReset_active (P : Params) (s : State) : (csumReset P s).active = s.active := rfl
@[simp] theorem csumReset_done (P : Params) (s : State) : (csumReset P s).done = s.done := rfl
@[simp] theorem csumReset_dir (P : Params) (s : State) : (csumReset P s).dir = s.dir := rfl
@[simp] theorem csumReset_err (P : Params) (s : State) : (csumReset P s).err = s.err := rfl
@[simp] theorem csumReset_lastN (P : Params) (s : State) : (csumReset P s).lastN = s.lastN := rfl
@[simp] theorem csumReset_busy (P : Params) (s : State) : (csumReset P s).busy = s.busy := rfl
@[simp] theorem csumReset_pend (P : Params) (s : State) : (csumReset P s).pend = s.pend := rfl
@[simp] theorem csumReset_prog (P : Params) (s : State) : (csumReset P s).prog = s.prog := rfl
@[simp] theorem csumReset_sched (P : Params) (s : State) : (csumReset P s).sched = s.sched := rfl
@[simp] theorem csumReset_seen (P : Params) (s : State) : (csumReset P s).seen = s.seen := rfl

/-! CSUM_ABSORB -/

@[simp] theorem csumAbsorb_key (P : Params) (b : Byte) (s : State) : (csumAbsorb P b s).key = s.key := rfl
@[simp] theorem csumAbsorb_rk (P : Params) (b : Byte) (s : State) : (csumAbsorb P b s).rk = s.rk := rfl
@[simp] theorem csumAbsorb_kv (P : Params) (b : Byte) (s : State) : (csumAbsorb P b s).kv = s.kv := rfl
@[simp] theorem csumAbsorb_din (P : Params) (b : Byte) (s : State) : (csumAbsorb P b s).din = s.din := rfl
@[simp] theorem csumAbsorb_dout (P : Params) (b : Byte) (s : State) : (csumAbsorb P b s).dout = s.dout := rfl
@[simp] theorem csumAbsorb_ctr (P : Params) (b : Byte) (s : State) : (csumAbsorb P b s).ctr = s.ctr := rfl
@[simp] theorem csumAbsorb_acc (P : Params) (b : Byte) (s : State) : (csumAbsorb P b s).acc = P.csumStep s.acc b := rfl
@[simp] theorem csumAbsorb_len (P : Params) (b : Byte) (s : State) : (csumAbsorb P b s).len = s.len := rfl
@[simp] theorem csumAbsorb_off (P : Params) (b : Byte) (s : State) : (csumAbsorb P b s).off = s.off := rfl
@[simp] theorem csumAbsorb_active (P : Params) (b : Byte) (s : State) : (csumAbsorb P b s).active = s.active := rfl
@[simp] theorem csumAbsorb_done (P : Params) (b : Byte) (s : State) : (csumAbsorb P b s).done = s.done := rfl
@[simp] theorem csumAbsorb_dir (P : Params) (b : Byte) (s : State) : (csumAbsorb P b s).dir = s.dir := rfl
@[simp] theorem csumAbsorb_err (P : Params) (b : Byte) (s : State) : (csumAbsorb P b s).err = s.err := rfl
@[simp] theorem csumAbsorb_lastN (P : Params) (b : Byte) (s : State) : (csumAbsorb P b s).lastN = s.lastN := rfl
@[simp] theorem csumAbsorb_busy (P : Params) (b : Byte) (s : State) : (csumAbsorb P b s).busy = s.busy := rfl
@[simp] theorem csumAbsorb_pend (P : Params) (b : Byte) (s : State) : (csumAbsorb P b s).pend = s.pend := rfl
@[simp] theorem csumAbsorb_prog (P : Params) (b : Byte) (s : State) : (csumAbsorb P b s).prog = s.prog := rfl
@[simp] theorem csumAbsorb_sched (P : Params) (b : Byte) (s : State) : (csumAbsorb P b s).sched = s.sched := rfl
@[simp] theorem csumAbsorb_seen (P : Params) (b : Byte) (s : State) : (csumAbsorb P b s).seen = s.seen := rfl

end Sys2Proof.Machine
end

