-- ==== Sys2Proof/Tests/Slice0.lean ====
section
/-! SUPPORT. Tests. Expected values are the spec's own (95_test_vectors.md; the section is named at each group); each test is about one
operation or one step. Then, for each obligation that has hypotheses, a witness that meets them all together. -/

namespace Sys2Proof.Tests

open Sys2Proof Sys2Proof.Machine

/-! ## Helpers -/

/-- 16 bytes written as one hexadecimal number, byte 0 first. -/
def blk (v : Nat) : Block := Vector.ofFn fun j => BitVec.ofNat 8 (v >>> (8 * (15 - j.val)))

/-- 4 bytes written as one hexadecimal number, byte 0 first. -/
def sw (v : Nat) : SWord := Vector.ofFn fun j => BitVec.ofNat 8 (v >>> (8 * (3 - j.val)))

/-- A column in the first four bytes of a block. -/
def col (v : Nat) : Block := blk (v <<< 96)

/-- K_SEQ: 00 01 02 .. 1f. -/
def keySeq : Key := Vector.ofFn fun i => BitVec.ofNat 8 i.val

/-- K_A3. -/
def keyA3 : Key :=
  Vector.ofFn fun i =>
    BitVec.ofNat 8 (0x603deb1015ca71be2b73aef0857d77811f352c073b6108d72d9810a30914dff4 >>> (8 * (31 - i.val)))

/-- The K_SEQ column of the table of full schedules (95 section 3.2). -/
def rkSeq : RoundKeys :=
  #v[blk 0x000102030405060708090a0b0c0d0e0f, blk 0x101112131415161718191a1b1c1d1e1f,
    blk 0xa573c29fa176c498a97fce93a572c09c, blk 0x1651a8cd0244beda1a5da4c10640bade,
    blk 0xae87dff00ff11b68a68ed5fb03fc1567, blk 0x6de1f1486fa54f9275f8eb5373b8518d,
    blk 0xc656827fc9a799176f294cec6cd5598b, blk 0x3de23a75524775e727bf9eb45407cf39,
    blk 0x0bdc905fc27b0948ad5245a4c1871c2f, blk 0x45f5a66017b2d387300d4d33640a820a,
    blk 0x7ccff71cbeb4fe5413e6bbf0d261a7df, blk 0xf01afafee7a82979d7a5644ab3afe640,
    blk 0x2541fe719bf500258813bbd55a721c0a, blk 0x4e5a6699a9f24fe07e572baacdf8cdea,
    blk 0x24fc79ccbf0979e9371ac23c6d68de36]

/-- The K_A3 column. -/
def rkA3 : RoundKeys :=
  #v[blk 0x603deb1015ca71be2b73aef0857d7781, blk 0x1f352c073b6108d72d9810a30914dff4,
    blk 0x9ba354118e6925afa51a8b5f2067fcde, blk 0xa8b09c1a93d194cdbe49846eb75d5b9a,
    blk 0xd59aecb85bf3c917fee94248de8ebe96, blk 0xb5a9328a2678a647983122292f6c79b3,
    blk 0x812c81addadf48ba24360af2fab8b464, blk 0x98c5bfc9bebd198e268c3ba709e04214,
    blk 0x68007bacb2df331696e939e46c518d80, blk 0xc814e20476a9fb8a5025c02d59c58239,
    blk 0xde1369676ccc5a71fa2563959674ee15, blk 0x5886ca5d2e2f31d77e0af1fa27cf73c3,
    blk 0x749c47ab18501ddae2757e4f7401905a, blk 0xcafaaae3e4d59b349adf6acebd10190d,
    blk 0xfe4890d1e6188d0b046df344706c631e]

/-- A field of the next state, where there is one. -/
def after {α : Type} (o : Host.Outcome State Fault Refusal) (f : State → α) : Option α :=
  match o with
  | .next t => some (f t)
  | .fault _ => none
  | .refused _ => none

/-- Reset, with a command accepted and the core to move next. -/
def pending (v : Word) : State := { State.reset with pend := v, busy := true }

/-- Reset, with host statements to run. -/
def hosting (p : List HostStmt) : State := { State.reset with prog := p }

/-- An open pass under K_ZERO, `off` bytes of `len` done. -/
def passing (len off : DWord) : State :=
  { State.reset with
    rk := keyExpansion (zeroBytes 32), kv := true, active := true, len := len, off := off
    lastN := if off = 0 then 0 else 16 }

/-! ## Encoding (95 section 3.1): every constructor, and the Illegal words -/

theorem test_decode_nop : decode 0b00000000_00000000_0000000_0_00000000#32 = .ok .nop := by decide
theorem test_decode_keyExpand : decode 0b00000000_00000000_0000000_0_00000001#32 = .ok .keyExpand := by decide
theorem test_decode_blockEnc : decode 0b00000000_00000000_0000000_0_00000010#32 = .ok .blockEnc := by decide
theorem test_decode_blockDec : decode 0b00000000_00000000_0000000_0_00000011#32 = .ok .blockDec := by decide
theorem test_decode_streamStart :
    decode 0b00000000_00000000_0000000_0_00000100#32 = .ok (.streamStart .encrypt) ∧
    decode 0b00000000_00000000_0000000_1_00000100#32 = .ok (.streamStart .decrypt) := by decide
theorem test_decode_streamBlock : decode 0b00000000_00000000_0000000_0_00000101#32 = .ok .streamBlock := by decide
theorem test_decode_streamAbort : decode 0b00000000_00000000_0000000_0_00000110#32 = .ok .streamAbort := by decide
theorem test_decode_csumReset : decode 0b00000000_00000000_0000000_0_00000111#32 = .ok .csumReset := by decide
theorem test_decode_csumAbsorb :
    decode 0b00000000_10100101_0000000_0_00001000#32 = .ok (.csumAbsorb 0xA5#8) ∧
    decode 0b00000000_11111111_0000000_0_00001000#32 = .ok (.csumAbsorb 0xFF#8) ∧
    decode 0b00000000_00000000_0000000_0_00001000#32 = .ok (.csumAbsorb 0x00#8) := by decide
theorem test_decode_zeroize : decode 0b00000000_00000000_0000000_0_00001001#32 = .ok .zeroize := by decide
theorem test_decode_errClear : decode 0b00000000_00000000_0000000_0_00001010#32 = .ok .errClear := by decide

theorem test_decode_illegal :
    decode 0x0000000B#32 = .error .reservedOpcode ∧ decode 0x000000FF#32 = .error .reservedOpcode ∧
    decode 0x00000105#32 = .error .strayDirection ∧ decode 0x00000108#32 = .error .strayDirection ∧
    decode 0x00010004#32 = .error .strayImmediate ∧ decode 0x00010000#32 = .error .strayImmediate ∧
    decode 0x00000200#32 = .error .reservedBits ∧ decode 0x01000001#32 = .error .reservedBits ∧
    decode 0x80000008#32 = .error .reservedBits ∧ decode 0xFFFFFFFF#32 = .error .reservedBits := by decide

theorem test_tableWord :
    decodeTableWord 32 0x00000104 = some (.streamStart .decrypt) ∧ decodeTableWord 32 0x0000000B = none ∧
    decodeTableWord 8 0x00000105 = some .streamBlock ∧ decodeTableWord 40 0x00000005 = none := by decide

/-! ## WellFormed: one ill-formed term for each check -/

theorem test_reservedBitsClear :
    reservedBitsClear 0x01000000#32 = false ∧ reservedBitsClear 0x80000000#32 = false ∧
    reservedBitsClear 0x00000200#32 = false ∧ reservedBitsClear 0x00008000#32 = false := by decide
theorem test_opcodeDefined : opcodeDefined 0x0000000B#32 = false ∧ opcodeDefined 0x0000000A#32 = true := by decide
theorem test_directionBitAllowed :
    directionBitAllowed 0x00000105#32 = false ∧ directionBitAllowed 0x00000104#32 = true := by decide
theorem test_immediateAllowed : immediateAllowed 0x00010000#32 = false ∧ immediateAllowed 0x00FF0008#32 = true := by decide
theorem test_legalWord : legalWord 0x00000105#32 = false ∧ legalWord 0x00A50008#32 = true := by decide
theorem test_portAccess :
    portAccess 0x00 1 = false ∧ portAccess 0x00 8 = false ∧ portAccess 0x02 4 = false ∧ portAccess 0x80 4 = false ∧
    portAccess 0x7C 4 = true := by decide
theorem test_hostStmt_wellFormed :
    (HostStmt.read 0x80 4).wellFormed = false ∧ (HostStmt.write 0x04 2 0).wellFormed = false ∧
    HostStmt.wait.wellFormed = true := by decide

/-! ## GF(2^8), key schedule (95 sections 2, 3.2, 3.3) -/

theorem test_field :
    xtime 0x57#8 = 0xAE#8 ∧ xtime 0x80#8 = 0x1B#8 ∧ gmul 0x57#8 0x13#8 = 0xFE#8 ∧ gmul 0x57#8 0x83#8 = 0xC1#8 := by decide
theorem test_sbox :
    sbox 0x00#8 = 0x63#8 ∧ sbox 0x01#8 = 0x7C#8 ∧ sbox 0x53#8 = 0xED#8 ∧ sbox 0xFF#8 = 0x16#8 ∧
    invSbox 0x63#8 = 0x00#8 ∧ invSbox 0xED#8 = 0x53#8 ∧ invSbox 0x00#8 = 0x52#8 := by decide
theorem test_rcon : [1, 2, 3, 4, 5, 6, 7].map rconByte = [0x01, 0x02, 0x04, 0x08, 0x10, 0x20, 0x40] := by decide
theorem test_rotWord : rotWord (sw 0x09cf4f3c) = sw 0xcf4f3c09 := by decide

/-- V-E1, at the three kinds of word: i mod 8 = 0, i mod 8 = 4, and the last. -/
theorem test_schedule_A3 :
    scheduleWord keyA3 8 = sw 0x9ba35411 ∧ scheduleWord keyA3 9 = sw 0x8e6925af ∧
    scheduleWord keyA3 12 = sw 0xa8b09c1a ∧ scheduleWord keyA3 59 = sw 0x706c631e := by decide +kernel

/-- The K_SEQ column. -/
theorem test_keyExpansion_seq : keyExpansion keySeq = rkSeq := by decide +kernel

/-! ## Block transform (95 sections 2, 3.3) -/

theorem test_mixColumns :
    mixColumns (col 0xdb135345) = col 0x8e4da1bc ∧ mixColumns (col 0xf20a225c) = col 0x9fdc589d ∧
    mixColumns (col 0xd4d4d4d5) = col 0xd5d5d7d6 ∧ invMixColumns (col 0x4d7ebdf8) = col 0x2d26314c := by decide +kernel
theorem test_shiftRows :
    shiftRows (blk 0x000102030405060708090a0b0c0d0e0f) = blk 0x00050a0f04090e03080d02070c01060b ∧
    invShiftRows (blk 0x000102030405060708090a0b0c0d0e0f) = blk 0x000d0a0704010e0b0805020f0c090603 := by decide +kernel

/-- V-E2 by the command: the next state's DOUT. -/
theorem test_blockEnc :
    after (exec .blockEnc { State.reset with rk := rkSeq, din := blk 0x00112233445566778899aabbccddeeff }) State.dout =
      some (blk 0x8ea2b7ca516745bfeafc49904b496089) := by decide +kernel

/-- V-E2, the other way. -/
theorem test_blockDec :
    after (exec .blockDec { State.reset with rk := rkSeq, din := blk 0x8ea2b7ca516745bfeafc49904b496089 }) State.dout =
      some (blk 0x00112233445566778899aabbccddeeff) := by decide +kernel

/-- The register view of V-E2's DOUT (R23). -/
theorem test_dout_words :
    let s := { State.reset with dout := blk 0x8ea2b7ca516745bfeafc49904b496089 }
    regRead params (.dout 0) s = 0xcab7a28e#32 ∧ regRead params (.dout 3) s = 0x8960494b#32 := by decide

/-- READDOUT at 95 section 4, P1 step 7: the words read give V-E2's 16 bytes, whatever was read before. -/
theorem test_readDout :
    readDoutBytes [⟨0x44, 0x8960494b#32⟩, ⟨0x40, 0x9049fcea#32⟩, ⟨0x3C, 0xbf456751#32⟩, ⟨0x38, 0xcab7a28e#32⟩,
      ⟨0x38, 0#32⟩] = some (blk 0x8ea2b7ca516745bfeafc49904b496089) ∧
    readDoutBytes [⟨0x38, 0xcab7a28e#32⟩] = none := by decide

/-! ## Stream, checksum, control (95 sections 3.4 to 3.6) -/

/-- V-S4. -/
theorem test_inc128 :
    inc128 (blk 0xff) = blk 0x100 ∧
    inc128 (blk 0xf0f1f2f3f4f5f6f7f8f9fafbfcfdfeff) = blk 0xf0f1f2f3f4f5f6f7f8f9fafbfcfdff00 ∧
    inc128 (blk 0xffffffffffffffffffffffffffffffff) = blk 0 := by decide +kernel

/-- V-S2, L = 1: STREAM_START opens the pass, and L = 0 closes it at once. -/
theorem test_streamStart :
    after (exec (.streamStart .encrypt) { State.reset with len := 1, acc := 5 }) (fun t => (t.active, t.done, t.acc)) =
      some (true, false, 0) ∧
    after (exec (.streamStart .decrypt) { State.reset with len := 0 }) (fun t => (t.active, t.done, t.dir)) =
      some (false, true, .decrypt) := by decide

/-- V-S3 before unit 1; the bytes beyond the third are not the stream's. ACC is R201's fold over unit 0, 0x00566c03 by hand; V-S3
prints 0x00566b03 there, against its own final value (log 24). -/
def beforeUnit1 : State :=
  { State.reset with
    rk := rkSeq, kv := true, active := true, len := 19, off := 16, lastN := 16
    ctr := blk 1, acc := 0x00566c03#32, din := blk 0x545221ffffffffffffffffffffffffff }

/-- V-S3, unit 1: n = 3, the output beyond n zero, the checksum. -/
theorem test_streamBlock :
    after (exec .streamBlock beforeUnit1) (fun t => (t.dout, t.acc)) =
      some (blk (0xa40f57 <<< 104), 0x02b3622d#32) := by decide +kernel

/-- V-S3, unit 1: the counter, OFF and LAST_N, the end of the pass. -/
theorem test_streamBlock_end :
    after (exec .streamBlock beforeUnit1) (fun t => (t.ctr, t.off, t.lastN)) = some (blk 2, 19#64, 3#5) ∧
    after (exec .streamBlock beforeUnit1) (fun t => (t.active, t.done)) = some (false, true) := by decide +kernel

/-- V-S6. -/
theorem test_streamAbort :
    after (exec .streamAbort (passing 20 16)) (fun t => (status t).toNat) = some 0x00100002 := by decide

theorem test_csumReset : after (exec .csumReset { State.reset with acc := 0x2ab }) State.acc = some 0 := by decide
theorem test_csumAbsorb :
    after (exec (.csumAbsorb 0x01) { State.reset with acc := 0x80000000 }) State.acc = some 0x00000002#32 ∧
    after (exec (.csumAbsorb 0xff) { State.reset with acc := 0xffffffff }) State.acc = some 0x000000fe#32 := by decide

theorem test_nop : after (step (pending 0x00000000#32)) (fun t => (t.busy, status t)) = some (false, 0) := by decide
/-- X11. -/
theorem test_zeroize :
    after (step { passing 20 16 with key := keySeq, err := 2, busy := true, pend := 0x00000009#32 })
      (fun t => (status t, t.key, t.rk)) = some (0, zeroBytes 32, zeroRoundKeys) := by decide +kernel
/-- R272: the whole state after X11's command, PEND included, is the state after reset. -/
theorem test_zeroize_reset :
    step { passing 20 16 with key := keySeq, err := 2, busy := true, pend := 0x00000009#32 } = .next State.reset := rfl
theorem test_errClear : after (exec .errClear { State.reset with err := 4 }) State.err = some 0 := by decide

/-! ## Another instance of the parameters (95 section 2, V-E4) -/

/-- V-E4's instance: only CTR_INIT differs from the default. -/
def instE4 : Params := { params with ctrInit := fun _ => blk 0xf0f1f2f3f4f5f6f7f8f9fafbfcfdfeff }

/-- V-E4 before its first STREAM_BLOCK. -/
def startE4 : State :=
  { State.resetWith instE4 with rk := rkA3, kv := true, len := 64, busy := true, pend := 0x00000004#32 }

/-- V-E4, STREAM_START as a step of that instance's machine, and of the default one. -/
theorem test_instance_start :
    after (stepWith instE4 startE4) (fun t => (t.ctr, t.acc, t.active)) =
      some (blk 0xf0f1f2f3f4f5f6f7f8f9fafbfcfdfeff, 0, true) ∧
    after (step startE4) State.ctr = some (blk 0) := by decide

/-- V-E4, unit 0: the published ciphertext, ACC, and the next counter block. -/
theorem test_instance_unit0 :
    after (execWith instE4 .streamBlock { streamStart instE4 .encrypt startE4 with
        din := blk 0x6bc1bee22e409f96e93d7e117393172a }) (fun t => (t.dout, t.acc, t.ctr)) =
      some (blk 0x601ec313775789a5b7a7f504bbf3d228, 0x00907ecc#32, blk 0xf0f1f2f3f4f5f6f7f8f9fafbfcfdff00) := by
  decide +kernel

/-! ## The port and errors (95 section 3.6) -/

/-- X2, X6, the two E_NOKEY and E_STATE rows of section 3.3: the error a CMD write reports. -/
theorem test_cmd_errors :
    status (regWrite .cmd 0x000000FF#32 State.reset) = 0x00000400#32 ∧
    status (regWrite .cmd 0x00000005#32 State.reset) = 0x00000200#32 ∧
    status (regWrite .cmd 0x00000002#32 State.reset) = 0x00000100#32 ∧
    status (regWrite .cmd 0x00000105#32 (passing 20 0)) = 0x00000406#32 ∧
    status (regWrite .lenLo 5#32 (passing 20 0)) = 0x00000206#32 := by decide

/-- V-S7: E_OVERRUN after the pass. -/
theorem test_overrun :
    status (regWrite .cmd 0x00000005#32 { State.reset with kv := true, done := true, len := 20, off := 20, lastN := 4 }) =
      0x0004030A#32 := by decide

/-- X14, X15, X4. -/
theorem test_reserved_and_key :
    regRead params (.reserved 0) (regWrite (.reserved 0) 0xFFFFFFFF#32 State.reset) = 0 ∧
    regRead params (.key 0) { State.reset with key := keySeq } = 0 ∧
    regRead params (.din 0) (regWrite (.din 0) 0x11223344#32 { State.reset with err := 4 }) = 0x11223344#32 := by decide

theorem test_regAt :
    regAt 0x00 4 = some .cmd ∧ regAt 0x04 4 = some .status ∧ regAt 0x24 4 = some (.key 7) ∧
    regAt 0x28 4 = some (.din 0) ∧ regAt 0x44 4 = some (.dout 3) ∧ regAt 0x48 4 = some (.ctr 0) ∧
    regAt 0x58 4 = some .csum ∧ regAt 0x60 4 = some .lenHi ∧ regAt 0x64 4 = some .offLo ∧
    regAt 0x7C 4 = some (.reserved 4) ∧ regAt 0x80 4 = none := by decide

/-- R90: WAIT reads STATUS; it is still the next statement while BUSY = 1, and over when BUSY = 0. -/
theorem test_wait :
    after (step { pending 1#32 with prog := [.wait], sched := [.host] }) (fun t => (t.prog, t.seen)) =
      some ([.wait], [⟨0x04, 1#32⟩]) ∧
    after (step (hosting [.wait])) (fun t => (t.prog, t.seen)) = some ([], [⟨0x04, 0#32⟩]) := by decide

/-- A step after withFetchWord performs the word, as the first command after reset. -/
theorem test_fetch :
    after (step (State.reset.withFetchWord 32 0x00610008)) (fun t => (t.acc, t.busy)) = some (0x61#32, false) := by decide

/-! ## Witnesses: the hypotheses of each obligation, met together -/

theorem witness_decoded :
    decode 0x00000104#32 = .ok (.streamStart .decrypt) ∧ decode 0x00FF0008#32 = .ok (.csumAbsorb 0xFF#8) ∧
    (∃ r ∈ opcodeMap, r.matchesWord 0x00000104#32 = true) := by decide

theorem witness_stepPerforms :
    mover (pending 0x0000000A#32) = .core ∧ (pending 0x0000000A#32).busy = true ∧
    decode (pending 0x0000000A#32).pend = .ok .errClear ∧
    mover { pending 0x0000000A#32 with sched := [.core, .host] } = .core ∧
    decodeTableWord 32 0x0000000A = some .errClear := by decide

/-- StreamBlockEffect: the shortest pass, a unit before the last, the last one, the longest stream; the two ends of a unit. -/
theorem witness_streamBlock :
    (passing 1 0).off < (passing 1 0).len ∧ (passing 17 0).off < (passing 17 0).len ∧
    (passing 17 16).off < (passing 17 16).len ∧
    (passing 0xFFFFFFFFFFFFFFFF 0xFFFFFFFFFFFFFFF0).off < (passing 0xFFFFFFFFFFFFFFFF 0xFFFFFFFFFFFFFFF0).len ∧
    (passing 17 0).off.toNat + min 16 (17 - 0) ≠ (passing 17 0).len.toNat ∧
    (passing 17 16).off.toNat + min 16 (17 - 16) = (passing 17 16).len.toNat := by decide

theorem witness_schedule : (8 ≤ 8 ∧ 8 < 60) ∧ (8 ≤ 12 ∧ 12 < 60 ∧ 12 % 8 = 4) ∧ (8 ≤ 59 ∧ 59 < 60) := by decide

theorem witness_streamStart : (passing 0 0).len = 0 ∧ (passing 1 0).len ≠ 0 := by decide

theorem witness_commandFrames : ∃ t, exec (.csumAbsorb 0x61#8) State.reset = .next t ∧ t.acc = 0x61#32 := ⟨_, rfl, by decide⟩

/-- ErrorCausesExact and ErrorReportIsPrecise: each code is reached from ERR = 0. -/
theorem witness_errors :
    (regWrite (.din 0) 1 (pending 1)).err = 5 ∧ (regWrite .cmd 0x0000000B State.reset).err = 4 ∧
    (regWrite .cmd 5 { State.reset with done := true }).err = 3 ∧ (regWrite .cmd 5 State.reset).err = 2 ∧
    (regWrite .cmd 1 (passing 20 0)).err = 2 ∧ (regWrite .lenHi 1 (passing 20 0)).err = 2 ∧
    (regWrite .cmd 0x104 State.reset).err = 1 ∧ State.reset.err = 0 ∧ (passing 20 0).err = 0 ∧ (pending 1).err = 0 := by
  decide

/-- StickyHoldOnlyCommands: a held command, a held Illegal word, the three that pass, and both values of ACTIVE. -/
theorem witness_sticky :
    let s := { State.reset with err := 5#4 }
    let p := { passing 20 0 with err := 1#4 }
    s.busy = false ∧ s.err ≠ 0 ∧ s.active = false ∧ p.busy = false ∧ p.err ≠ 0 ∧ p.active = true ∧
    decode 0x00000006#32 = .ok .streamAbort ∧ decode 0x0000000B#32 = .error .reservedOpcode ∧
    decode 0x00000000#32 = .ok .nop ∧ decode 0x00000009#32 = .ok .zeroize ∧ decode 0x0000000A#32 = .ok .errClear := by decide

theorem witness_busyWrites :
    let w := { pending 1 with prog := [.write (regOffset (.reserved 4)) 4 1], sched := [.host] }
    let r := { pending 1 with prog := [.read (regOffset .status) 4], sched := [.host] }
    w.busy = true ∧ mover w = .host ∧ w.prog = [.write 0x7C 4 1] ∧ r.busy = true ∧ mover r = .host ∧ r.prog = [.read 0x04 4] := by
  decide

theorem witness_idle : State.reset.busy = false ∧ State.reset.active = false := by decide

theorem witness_badAccess :
    let s := hosting [.read 0x80 4]
    let w := hosting [.write 0x7E 4 0]
    mover s = .host ∧ s.prog = [.read 0x80 4] ∧ ¬ (4 = 4 ∧ 0x80 % 4 = 0 ∧ 0x80 ≤ 0x7C) ∧
    mover w = .host ∧ w.prog = [.write 0x7E 4 0] ∧ ¬ (4 = 4 ∧ 0x7E % 4 = 0 ∧ 0x7E ≤ 0x7C) := by decide

theorem witness_read :
    mover (hosting [.read (regOffset .csum) 4]) = .host ∧ (hosting [.read (regOffset .csum) 4]).prog = [.read 0x58 4] := by decide

/-- ReadsHaveNoSideEffect: READDOUT with an empty schedule, and with a host schedule while BUSY = 1. -/
theorem witness_readDout :
    let s := hosting (readDout ++ [.wait])
    let b := { pending 1#32 with prog := readDout, sched := [.host, .host, .host, .host, .core] }
    (s.sched = [] ∧ s.busy = false) ∧ s.prog = readDout ++ [.wait] ∧
    b.sched.take 4 = [.host, .host, .host, .host] ∧ b.prog = readDout ++ [] ∧ b.busy = true := by decide

/-- LoadKeyAnyOrder: an order that is not loadKey's. -/
theorem witness_loadKey :
    let order : List (Fin 8) := [7, 0, 6, 1, 5, 2, 4, 3]
    let s := hosting (loadKeyIn order keySeq ++ [.wait])
    order.Perm (List.finRange 8) ∧ s.busy = false ∧ s.sched = [] ∧ s.prog = loadKeyIn order keySeq ++ [.wait] ∧
    after (core.run 8 s) (fun t => (t.key, t.prog)) = some (keySeq, [.wait]) := by decide

/-- ReadsHaveNoSideEffect: WAIT with BUSY = 1 and with BUSY = 0. -/
theorem witness_wait :
    let s := { pending 1#32 with prog := [.wait], sched := [.host] }
    mover s = .host ∧ s.prog = [.wait] ∧ s.busy = true ∧
    mover (hosting [.wait]) = .host ∧ (hosting [.wait]).prog = [.wait] ∧ (hosting [.wait]).busy = false := by decide

/-- The invariants hold in a state with a pass open on a unit boundary and STREAM_BLOCK pending. -/
theorem witness_inv : Inv { passing 17 16 with busy := true, pend := 0x00000005#32 } where
  openPass := fun _ => ⟨rfl, by decide, rfl⟩
  doneNotActive := by intro h; cases h
  lastNBound := by decide
  lastNZero := by decide
  errBound := by decide
  schedule := fun _ => ⟨zeroBytes 32, rfl⟩
  noSchedule := by intro h; cases h
  pending := fun _ => ⟨.streamBlock, by decide, by decide⟩

/-- StepKeepsInvariants: such a state steps. -/
theorem witness_inv_step : ∃ s t, Inv s ∧ step s = .next t ∧ s.active = true ∧ s.busy = true :=
  ⟨_, _, witness_inv, by
    rw [step_core (by decide)]
    unfold coreTurn
    rw [if_pos (by decide)]
    unfold coreStep
    rw [show decode _ = .ok .streamBlock from by decide]
    exact congrArg (completeOutcome .streamBlock) (exec_eq_next .streamBlock _), rfl, rfl⟩

/-- StepsStopOnlyAtBadAccess: a refused step from a state with the invariants. -/
theorem witness_refused : step (hosting [.read 0x80 4]) = .refused .portAccess ∧ State.reset.err ≤ 5#4 := ⟨rfl, by decide⟩

theorem witness_inv_hosting : Inv (hosting [.read 0x80 4]) where
  openPass := by intro h; cases h
  doneNotActive := by intro h; cases h
  lastNBound := by decide
  lastNZero := by decide
  errBound := by decide
  schedule := by intro h; cases h
  noSchedule := fun _ => rfl
  pending := by intro h; cases h

/-- OnlyNamedMovesWrite: a step that changes each of KV, DIN, DOUT, CTR, LEN and OFF. -/
theorem witness_moves :
    after (step (pending 0x00000001#32)) State.kv = some true ∧
    after (step (hosting [wr (.din 3) 1#32])) State.din = some (blk 0x01000000) ∧
    after (step { hosting [.assertReset] with dout := blk 1 }) State.dout = some (blk 0) ∧
    after (step { passing 17 0 with busy := true, pend := 5#32 }) State.ctr = some (blk 1) ∧
    after (step (hosting [wr .lenHi 1#32])) State.len = some 0x100000000#64 ∧
    after (step { passing 17 0 with busy := true, pend := 5#32 }) State.off = some 16#64 := by decide +kernel

/-- BusyTransitions and ErrIsSticky: a step that sets BUSY, one that clears it, one that sets ERR and two that clear it. -/
theorem witness_transitions :
    after (step (hosting [cmd .nop])) State.busy = some true ∧ (hosting [cmd .nop]).busy = false ∧
    after (step (pending 0#32)) State.busy = some false ∧ (pending 0#32).busy = true ∧
    after (step (hosting [cmd .blockEnc])) State.err = some 1 ∧
    after (step { pending 0x0000000A#32 with err := 5 }) State.err = some 0 ∧
    after (step { hosting [.assertReset] with err := 5 }) State.err = some 0 := by decide

/-- PendingCommandUndisturbed: a host write, with ERR = 0 and with ERR = 2, before the core step. -/
theorem witness_undisturbed :
    let s := { pending 1#32 with prog := [wr (.din 0) 1#32], sched := [.host, .core] }
    s.busy = true ∧ mover s = .host ∧ s.prog = [wr (.din 0) 1#32] ∧ after (step s) State.err = some 5 ∧
    after (step { s with err := 2 }) State.err = some 2 := by decide

/-- KeyIsNotObservable: two states that differ in KEY, about to read KEY0. -/
theorem witness_sameButKey :
    let s := hosting [rd (.key 0)]
    let t := { s with key := keySeq }
    sameButKey s t ∧ s ≠ t ∧ ¬ corePerforms .keyExpand s ∧ after (step s) State.seen = some [⟨0x08, 0⟩] := by
  refine ⟨rfl, by decide, fun h => ?_, by decide⟩
  have := h.2.1
  revert this
  decide

theorem witness_reset :
    mover { pending 5#32 with prog := [.assertReset], sched := [.host] } = .host ∧
    after (step { pending 5#32 with prog := [.assertReset], sched := [.host], acc := 7 }) (fun t => (t.busy, t.acc)) =
      some (false, 0) := by decide

theorem witness_zeroize : corePerforms .zeroize (pending 0x00000009#32) := ⟨by decide, by decide, by decide⟩

/-- DoneMarksWholeStream: the last unit of a pass, after which DONE = 1 and OFF = LEN; and the exception, a completed pass whose LEN the
host then writes. -/
theorem witness_done :
    let u := { passing 17 16 with busy := true, pend := 0x00000005#32 }
    let s := { hosting [wr .lenLo 5#32] with done := true, len := 20, off := 20, lastN := 4 }
    (u.done = true → u.off = u.len) ∧ after (step u) (fun t => (t.done, t.off, t.len)) = some (true, 17#64, 17#64) ∧
    (s.done = true → s.off = s.len) ∧ s.busy = false ∧ s.active = false ∧ mover s = .host ∧
    s.prog = [.write (regOffset .lenLo) 4 5#32] ∧
    after (step s) (fun t => (t.done, t.off, t.len)) = some (true, 20#64, 5#64) := by decide +kernel

/-- DoneKeepsPassLength: a run of two steps to DONE = 1, from a state with the invariants. -/
theorem witness_done_run :
    let s := { passing 17 16 with busy := true, pend := 0x00000005#32 }
    Inv s ∧ (s.done = true → s.off = s.len) ∧ after (core.run 2 s) State.done = some true :=
  ⟨witness_inv, by decide, by decide +kernel⟩

/-- InstanceCommandsUseParameters and InstanceMachineUsesParameters, under V-E4's instance. -/
theorem witness_instances :
    (streamStart instE4 .encrypt startE4).off < (streamStart instE4 .encrypt startE4).len ∧
    corePerforms (.streamStart .encrypt) startE4 ∧
    (∃ t, stepWith instE4 startE4 = .next t) ∧
    hostPerforms (.read 0x58 4) (hosting [.read 0x58 4]) ∧ hostPerforms .assertReset (hosting [.assertReset]) ∧
    hostPerforms .wait (hosting [.wait]) ∧ hostPerforms (.write 0x28 4 1#32) (hosting [.write 0x28 4 1#32]) ∧
    Inv (State.resetWith instE4) ∧ (∃ t, stepWith instE4 (State.resetWith instE4) = .next t) :=
  ⟨by decide, ⟨by decide, by decide, by decide⟩, ⟨_, rfl⟩, ⟨by decide, by decide⟩, ⟨by decide, by decide⟩,
    ⟨by decide, by decide⟩, ⟨by decide, by decide⟩,
    { openPass := by intro h; cases h
      doneNotActive := by intro h; cases h
      lastNBound := by decide
      lastNZero := by decide
      errBound := by decide
      schedule := by intro h; cases h
      noSchedule := fun _ => rfl
      pending := by intro h; cases h }, ⟨_, rfl⟩⟩

theorem witness_roundTrip : ([] : List Byte).length < 2 ^ 64 ∧ (List.replicate 17 0x00#8).length < 2 ^ 64 ∧
    State.reset.rk = State.reset.rk := by decide

/-- DoCommandCompletes: with no schedule, with one that keeps both agents turning, and the ERR_CLEAR of a sticky error. -/
theorem witness_doCommand :
    let s := { hosting (doCmd .csumReset ++ [rd .csum]) with sched := [.core, .host, .host, .host] }
    let e := { hosting (doCmd .errClear) with err := 4#4 }
    s.busy = false ∧ s.err = 0 ∧ commandError .csumReset s = none ∧ s.prog = doCmd .csumReset ++ [rd .csum] ∧
    e.busy = false ∧ e.err ≠ 0 ∧ commandError .errClear e = none ∧ e.prog = doCmd .errClear ++ [] := by decide

end Sys2Proof.Tests
end

namespace Sys2Proof.Machine

open Polynomial

/-! ## Bytes as polynomials over GF(2) (00_scope.md R12) -/

/-- The coefficient a bit stands for. -/
noncomputable def bitPoly (p : Bool) : (ZMod 2)[X] := if p then 1 else 0

/-- The `n` low bits of `a` read as a polynomial, bit `i` the coefficient of `x^i`. -/
noncomputable def bitsPoly (n : Nat) (a : Byte) : (ZMod 2)[X] := ∑ i ∈ Finset.range n, bitPoly (a.getLsbD i) * X ^ i

/-- `m(x)` (R12). -/
noncomputable def reductionPoly : (ZMod 2)[X] := X ^ 8 + X ^ 4 + X ^ 3 + X + 1

@[simp] theorem bitsPoly_zero (a : Byte) : bitsPoly 0 a = 0 := Finset.sum_range_zero _

@[simp] theorem bitsPoly_zero_byte (n : Nat) : bitsPoly n 0x00#8 = 0 := by simp [bitsPoly, bitPoly]

theorem poly_add_self (p : (ZMod 2)[X]) : p + p = 0 := CharTwo.add_self_eq_zero p

theorem bitPoly_xor (p q : Bool) : bitPoly (p ^^ q) = bitPoly p + bitPoly q := by
  cases p <;> cases q <;> simp [bitPoly, poly_add_self]

theorem bitsPoly_xor (n : Nat) (a b : Byte) : bitsPoly n (a ^^^ b) = bitsPoly n a + bitsPoly n b := by
  simp [bitsPoly, bitPoly_xor, add_mul, Finset.sum_add_distrib]

/-- Bit 0 split off: the other bits are those of `a >>> 1`, one power higher. -/
theorem bitsPoly_succ (n : Nat) (a : Byte) :
    bitsPoly (n + 1) a = bitPoly (a.getLsbD 0) + X * bitsPoly n (a >>> 1) := by
  simp only [bitsPoly, Finset.sum_range_succ', BitVec.getLsbD_ushiftRight, Finset.mul_sum, add_comm 1]
  rw [pow_zero, mul_one, add_comm]
  congr 1
  exact Finset.sum_congr rfl fun i _ => by ring

theorem bitsPoly_ite (n : Nat) (p : Bool) (b : Byte) :
    bitsPoly n (if p then b else 0x00#8) = bitPoly p * bitsPoly n b := by
  cases p <;> simp [bitPoly]

/-- `xtime` is multiplication by x, with m(x) taken away when the product has degree 8. -/
theorem X_mul_bitsPoly (b : Byte) :
    X * bitsPoly 8 b = bitsPoly 8 (xtime b) + bitPoly (b.getLsbD 7) * reductionPoly := by
  obtain ⟨h0, h1, h2, h3, h4, h5, h6, h7⟩ := xtime_bits b
  simp only [bitsPoly, reductionPoly, Finset.sum_range_succ, Finset.sum_range_zero, h0, h1, h2, h3, h4, h5, h6, h7,
    bitPoly_xor]
  linear_combination -(1 + X + X ^ 3 + X ^ 4) * poly_add_self (bitPoly (b.getLsbD 7))

/-- The loop of `gmul` computes the product by the low `n` bits of `a` modulo m(x). -/
theorem reductionPoly_dvd_gmulBits (n : Nat) : ∀ a b : Byte,
    reductionPoly ∣ bitsPoly n a * bitsPoly 8 b - bitsPoly 8 (gmulBits n a b) := by
  induction n with
  | zero => intro a b; simp [gmulBits]
  | succ n ih =>
    intro a b
    have hx : reductionPoly ∣ X * bitsPoly 8 b - bitsPoly 8 (xtime b) :=
      ⟨bitPoly (b.getLsbD 7), by rw [X_mul_bitsPoly]; ring⟩
    have hsplit : bitsPoly (n + 1) a * bitsPoly 8 b - bitsPoly 8 (gmulBits (n + 1) a b) =
        bitsPoly n (a >>> 1) * (X * bitsPoly 8 b - bitsPoly 8 (xtime b)) +
          (bitsPoly n (a >>> 1) * bitsPoly 8 (xtime b) - bitsPoly 8 (gmulBits n (a >>> 1) (xtime b))) := by
      rw [gmulBits, bitsPoly_xor, bitsPoly_ite, bitsPoly_succ]
      ring
    rw [hsplit]
    exact dvd_add (hx.mul_left _) (ih _ _)

/-- A byte's polynomial as a sum over its eight bits. -/
theorem bitsPoly_eight (a : Byte) : bitsPoly 8 a = ∑ i : Fin 8, if a.getLsbD i.val then X ^ i.val else 0 := by
  simp only [bitsPoly, Finset.sum_range, bitPoly, ite_mul, one_mul, zero_mul]

/-- Settles O7: each turn of `gmul`'s loop keeps the product modulo m(x), by induction on the bits of `a`. -/
theorem gfProductModuloPolynomial : Obligations.GfProductModuloPolynomial := by
  intro a b
  simp only [← bitsPoly_eight]
  exact reductionPoly_dvd_gmulBits 8 a b

end Sys2Proof.Machine

namespace Sys2Proof.Machine

/-! ## The counter (42_stream_driver.md R177) -/

/-- `ctrBytes` writes a number modulo 2^128. -/
theorem ctrValue_ctrBytes (v : Nat) : ctrValue (ctrBytes v) = v % 2 ^ 128 := by
  have hdigit : ∀ j, j < 16 → ((ctrBytes v).toList.getD j 0).toNat = v / 256 ^ (16 - 1 - j) % 256 := by
    intro j hj
    simp [ctrBytes, List.getD_eq_getElem?_getD, hj]
  rw [ctrValue_eq_bigEndian, bigEndian_congr hdigit, bigEndian_of_digits]
  norm_num

theorem ctrValue_inc128 (b : Block) : ctrValue (inc128 b) = (ctrValue b + 1) % 2 ^ 128 := by
  rw [inc128, ctrValue_ctrBytes, Nat.mod_mod]

/-! ## One unit of a pass (42_stream_driver.md R178 to R180) -/

theorem unitOutput_getElem (n : Nat) (din ks : Block) (j : Fin 16) :
    (unitOutput n din ks)[j] = if j.val < n then din[j] ^^^ ks[j] else 0x00#8 := by
  simp [unitOutput]

/-- A block's bytes listed by index. -/
theorem block_toList (b : Block) : b.toList = (List.finRange 16).map fun j => b[j] := by
  apply List.ext_getElem <;> simp

theorem unitPlaintext_eq_map (dir : Direction) (n : Nat) (din ks : Block) :
    unitPlaintext dir n din ks =
      ((List.finRange 16).take n).map fun j => if dir = .encrypt then din[j] else din[j] ^^^ ks[j] := by
  cases dir <;> simp [unitPlaintext, block_toList, xorBytes, List.map_take]

/-- Absorbing a unit is CSUM_STEP once per plaintext byte, in index order (43_checksum.md R205). -/
theorem absorbAll_unitPlaintext (P : Params) (acc : Word) (dir : Direction) (n : Nat) (din ks : Block) :
    absorbAll P acc (unitPlaintext dir n din ks) =
      ((List.finRange 16).take n).foldl
        (fun a j => P.csumStep a (if dir = .encrypt then din[j] else din[j] ^^^ ks[j])) acc := by
  rw [absorbAll, unitPlaintext_eq_map, List.foldl_map]

theorem toNat_ofNat_unitLen (len off : DWord) : (BitVec.ofNat 5 (unitLen len off)).toNat = unitLen len off := by
  have := unitLen_le len off
  rw [BitVec.toNat_ofNat, Nat.mod_eq_of_lt (by omega)]

/-- Within the stream a unit ends the pass exactly when its bytes reach LEN. -/
theorem advanceOff_eq_len_iff {len off : DWord} (h : off ≤ len) :
    advanceOff off (unitLen len off) = len ↔ off.toNat + unitLen len off = len.toNat := by
  rw [← BitVec.toNat_inj, (advanceOff_toNat h).1]

theorem streamBlock_frame (P : Params) (s : State) : FrameOf (writes .streamBlock) s (streamBlock P s) := by
  constructor <;> simp [writes]

/-- STREAM_START's state in one record (R174). -/
theorem streamStart_eq (P : Params) (d : Direction) (s : State) : streamStart P d s = { s with
    ctr := P.ctrInit s.rk, acc := P.csumInit, off := 0, dir := d, lastN := 0
    active := decide (s.len ≠ 0), done := decide (s.len = 0) } := by
  unfold streamStart startFlags
  split <;> simp_all

/-! ## The instances of the parameters (00_scope.md R8) -/

/-- `exec` runs on the default parameters (log 6). -/
theorem execWith_params (i : Instr) (s : State) : execWith params i s = exec i s := by
  cases i <;> rfl

/-- The reset states of two instances differ in ACC alone. -/
theorem resetWith_eq (P : Params) : State.resetWith P = { State.reset with acc := P.csumInit } := rfl

/-- STREAM_BLOCK inside a pass, under any parameters: the unit's output, the checksum fold, the counter, the offset, the
flags and the frame (R178 to R180). -/
theorem streamBlock_effect (P : Params) {s : State} (h : s.off < s.len) :
    let t := streamBlock P s
    let n := min 16 (s.len.toNat - s.off.toNat)
    let ks := cipher s.ctr s.rk
    (∀ j : Fin 16, t.dout[j] = if j.val < n then s.din[j] ^^^ ks[j] else 0x00#8) ∧
    t.acc = ((List.finRange 16).take n).foldl
      (fun a j => P.csumStep a (if s.dir = .encrypt then s.din[j] else s.din[j] ^^^ ks[j])) s.acc ∧
    ctrValue t.ctr = (ctrValue s.ctr + 1) % 2 ^ 128 ∧
    t.off.toNat = s.off.toNat + n ∧ t.lastN.toNat = n ∧
    (s.off.toNat + n = s.len.toNat → t.active = false ∧ t.done = true) ∧
    (s.off.toNat + n ≠ s.len.toNat → t.active = s.active ∧ t.done = s.done) ∧
    FrameOf (writes .streamBlock) s t := by
  have hle : s.off ≤ s.len := BitVec.le_of_lt h
  have hend := advanceOff_eq_len_iff hle
  intro t n ks
  have hn : unitLen s.len s.off = n := unitLen_eq hle
  refine ⟨fun j => ?_, ?_, ?_, ?_, ?_, fun he => ?_, fun hne => ?_, streamBlock_frame P s⟩
  · rw [streamBlock_dout, hn, unitOutput_getElem]
  · rw [streamBlock_acc, hn, absorbAll_unitPlaintext]
  · rw [streamBlock_ctr, ctrValue_inc128]
  · rw [streamBlock_off, (advanceOff_toNat hle).1, hn]
  · rw [streamBlock_lastN, toNat_ofNat_unitLen, hn]
  · rw [hn] at hend
    simp [t, hn, hend.mpr he]
  · rw [hn] at hend
    simp [t, hn, mt hend.mp hne]

/-- Settles O59: each command's equation, STREAM_BLOCK's from the lemmas about one unit. -/
theorem instanceCommandsUseParameters : Obligations.InstanceCommandsUseParameters := by
  intro P s
  refine ⟨fun d => ?_, fun h => ⟨_, execWith_streamBlock P s, streamBlock_effect P h⟩, execWith_csumReset P s,
    fun b => execWith_csumAbsorb P b s, execWith_zeroize P s, fun i hi => ?_, fun i => execWith_params i s⟩
  · rw [execWith_streamStart, streamStart_eq]
  · simp only [List.mem_cons, List.not_mem_nil, or_false] at hi
    rcases hi with rfl | rfl | rfl | rfl | rfl | rfl <;> rfl

end Sys2Proof.Machine

namespace Sys2Proof.Machine

/-! ## Host moves (20_memory.md R62, 30_encoding.md R90) -/

/-- Each register is reached by a word access at its own offset (R62). -/
theorem regAt_regOffset (r : Reg) : regAt (regOffset r) 4 = some r := by
  cases r with
  | key k => revert k; decide
  | din k => revert k; decide
  | dout k => revert k; decide
  | ctr k => revert k; decide
  | reserved k => revert k; decide
  | cmd => rfl
  | status => rfl
  | csum => rfl
  | lenLo => rfl
  | lenHi => rfl
  | offLo => rfl
  | offHi => rfl

/-- A register's word does not depend on the host's side. -/
theorem regRead_of_host_side (P : Params) (r : Reg) (s : State) (p : List HostStmt) (q : List Agent)
    (w : List Reading) : regRead P r { s with prog := p, sched := q, seen := w } = regRead P r s := by
  cases r <;> rfl

/-- A read of a register keeps its word in the read log, and changes nothing else (R63). -/
theorem stepWith_read (P : Params) {s : State} {r : Reg} {rest : List HostStmt} (hm : mover s = .host)
    (hp : s.prog = .read (regOffset r) 4 :: rest) : stepWith P s = .next { s with
      prog := rest, sched := s.sched.tail, seen := ⟨regOffset r, regRead P r s⟩ :: s.seen } := by
  rw [stepWith_host P hm hp, hostAct, regAt_regOffset]
  simp only [logRead, takeTurn, regRead_of_host_side]

/-- A WAIT or a write uses no parameter. -/
theorem hostAct_eq_of_wait_or_write (P Q : Params) {st : HostStmt}
    (h : st = .wait ∨ ∃ off size v, st = .write off size v) (s : State) : hostAct P st s = hostAct Q st s := by
  rcases h with rfl | ⟨off, size, v, rfl⟩ <;> rfl

/-! ## The default parameters (log 6) -/

theorem stepWith_params : stepWith params = step := by
  have hexec : execWith params = exec := funext fun i => funext fun s => execWith_params i s
  funext s
  rw [stepWith, hexec, step]

theorem coreWith_params : coreWith params = core := by
  rw [coreWith, stepWith_params]
  rfl

/-- The next move is the host's statement `st`: what the step is, under any parameters. -/
theorem stepWith_hostPerforms (P : Params) {st : HostStmt} {s : State} (h : hostPerforms st s) :
    stepWith P s = hostAct P st { takeTurn s with prog := s.prog.tail } := by
  obtain ⟨hm, hp⟩ := h
  exact stepWith_host P hm (List.eq_cons_of_mem_head? hp)

/-! ## The conditions of an accepted command (60_exceptions.md R240) -/

theorem needsNoPass_eq_none {s : State} : needsNoPass s = none ↔ s.active = false := by
  cases ha : s.active <;> simp [needsNoPass, ha]

theorem needsNoPassAndKey_eq_none {s : State} :
    needsNoPassAndKey s = none ↔ s.active = false ∧ s.kv = true := by
  cases ha : s.active <;> cases hk : s.kv <;> simp [needsNoPassAndKey, ha, hk]

theorem needsPass_eq_none {s : State} : needsPass s = none ↔ s.active = true := by
  cases ha : s.active <;> cases hd : s.done <;> simp [needsPass, ha, hd]

/-! ## The invariants (10_state.md R42) -/

theorem inv_resetWith (P : Params) : Inv (State.resetWith P) where
  openPass h := by cases h
  doneNotActive h := by cases h
  lastNBound := by simp
  lastNZero := by simp
  errBound := by simp
  schedule h := by cases h
  noSchedule _ := rfl
  pending h := by cases h

section Preservation

variable {s t : State} (hi : Inv s)
include hi

/-- A move that leaves the pass and the schedule alone keeps the invariants, if it leaves a legal error code and any
pending command was pending before. -/
theorem Inv.of_pass_unchanged (hactive : t.active = s.active) (hdone : t.done = s.done) (hkv : t.kv = s.kv)
    (hrk : t.rk = s.rk) (hlen : t.len = s.len) (hoff : t.off = s.off) (hlastN : t.lastN = s.lastN)
    (herr : t.err ≤ 5#4) (hpend : t.busy = true → s.busy = true ∧ t.pend = s.pend) : Inv t where
  openPass := by rw [hactive, hkv, hoff, hlen]; exact hi.openPass
  doneNotActive := by rw [hactive, hdone]; exact hi.doneNotActive
  lastNBound := by rw [hlastN]; exact hi.lastNBound
  lastNZero := by rw [hlastN, hoff]; exact hi.lastNZero
  errBound := herr
  schedule := by rw [hkv, hrk]; exact hi.schedule
  noSchedule := by rw [hkv, hrk]; exact hi.noSchedule
  pending hb := by
    obtain ⟨hsb, hp⟩ := hpend hb
    obtain ⟨i, hd, hc⟩ := hi.pending hsb
    exact ⟨i, hp ▸ hd, (commandError_congr i hactive hkv hdone).trans hc⟩

/-- A move that changes the host's side alone. -/
theorem Inv.of_host_side (p : List HostStmt) (q : List Agent) (r : List Reading) :
    Inv { s with prog := p, sched := q, seen := r } :=
  hi.of_pass_unchanged rfl rfl rfl rfl rfl rfl rfl hi.errBound fun hb => ⟨hb, rfl⟩

theorem Inv.raiseErr (e : ErrCode) : Inv (raiseErr e s) := by
  rw [raiseErr_eq]
  refine hi.of_pass_unchanged rfl rfl rfl rfl rfl rfl rfl ?_ fun hb => ⟨hb, rfl⟩
  show (if s.err = 0 then errValue e else s.err) ≤ 5#4
  split
  · exact (errValue_bounds e).2
  · exact hi.errBound

/-- Accepting a command whose conditions hold (60_exceptions.md R240). -/
theorem Inv.acceptCmd {v : Word} {i : Instr} (hd : decode v = .ok i) (hc : commandError i s = none) :
    Inv (acceptCmd v s) where
  openPass := hi.openPass
  doneNotActive := hi.doneNotActive
  lastNBound := hi.lastNBound
  lastNZero := hi.lastNZero
  errBound := hi.errBound
  schedule := hi.schedule
  noSchedule := hi.noSchedule
  pending _ := ⟨i, hd, (commandError_congr i rfl rfl rfl).trans hc⟩

/-- LEN may be written while no pass is open (10_state.md R29). -/
theorem Inv.set_len (ha : s.active = false) (hb : s.busy = false) (l : DWord) : Inv { s with len := l } where
  openPass h := by simp [ha] at h
  doneNotActive := hi.doneNotActive
  lastNBound := hi.lastNBound
  lastNZero := hi.lastNZero
  errBound := hi.errBound
  schedule := hi.schedule
  noSchedule := hi.noSchedule
  pending h := by simp [hb] at h

theorem Inv.regWrite (r : Reg) (v : Word) : Inv (regWrite r v s) := by
  rcases regWrite_cases r v s with ⟨-, h⟩ | ⟨hb, h⟩ <;> rw [h]
  · exact hi.raiseErr .busy
  rcases idleWrite_cases r v s with ⟨e, h⟩ | h | ⟨k, -, h⟩ | ⟨k, -, h⟩ | ⟨ha, -, l, h⟩ | ⟨-, i, hd, hc, h⟩ <;> rw [h]
  · exact hi.raiseErr e
  · exact hi
  · exact hi.of_pass_unchanged rfl rfl rfl rfl rfl rfl rfl hi.errBound fun hb => ⟨hb, rfl⟩
  · exact hi.of_pass_unchanged rfl rfl rfl rfl rfl rfl rfl hi.errBound fun hb => ⟨hb, rfl⟩
  · exact hi.set_len ha hb l
  · exact hi.acceptCmd hd hc

theorem Inv.hostAct {P : Params} {st : HostStmt} (h : hostAct P st s = .next t) : Inv t := by
  rcases hostAct_cases h with ⟨off, size, r, -, -, rfl⟩ | ⟨off, size, v, r, -, -, rfl⟩ | ⟨-, rfl⟩ | ⟨-, rfl⟩
  · exact hi.of_host_side _ _ _
  · exact hi.regWrite r v
  · exact hi.of_host_side _ _ _
  · exact (inv_resetWith P).of_host_side _ _ _

/-! The core step of each command, from the conditions checked when it was accepted. -/

/-- A command that changes neither the pass nor the schedule. -/
theorem Inv.complete_of_pass_unchanged (i : Instr) (hactive : t.active = s.active) (hdone : t.done = s.done)
    (hkv : t.kv = s.kv) (hrk : t.rk = s.rk) (hlen : t.len = s.len) (hoff : t.off = s.off) (hlastN : t.lastN = s.lastN)
    (herr : t.err ≤ 5#4) : Inv (completeCmd i t) :=
  hi.of_pass_unchanged hactive hdone hkv hrk hlen hoff hlastN herr nofun

/-- KEY_EXPAND outside a pass leaves a schedule (10_state.md R31). -/
theorem Inv.complete_keyExpand (ha : s.active = false) :
    Inv (completeCmd .keyExpand { s with rk := keyExpansion s.key, kv := true, key := zeroBytes 32 }) where
  openPass h := by simp [ha] at h
  doneNotActive := hi.doneNotActive
  lastNBound := hi.lastNBound
  lastNZero := hi.lastNZero
  errBound := hi.errBound
  schedule _ := ⟨s.key, rfl⟩
  noSchedule := nofun
  pending := nofun

/-- STREAM_START with a schedule opens a pass at offset 0, or ends an empty one. -/
theorem Inv.complete_streamStart (P : Params) (d : Direction) (hk : s.kv = true) :
    Inv (completeCmd (.streamStart d) (streamStart P d s)) where
  openPass h := by
    have hlen : s.len ≠ 0 := by simpa using h
    have hpos : (0 : DWord) < s.len := by bv_omega
    simpa [hk] using hpos
  doneNotActive h := by simpa using h
  lastNBound := by simp
  lastNZero := by simp
  errBound := by simpa using hi.errBound
  schedule := by simpa using hi.schedule
  noSchedule := by simpa using hi.noSchedule
  pending := nofun

/-- STREAM_BLOCK in an open pass: a unit that does not reach LEN is a whole one, so the next unit starts on a boundary. -/
theorem Inv.complete_streamBlock (P : Params) (ha : s.active = true) :
    Inv (completeCmd .streamBlock (streamBlock P s)) := by
  obtain ⟨hk, hlt, halign⟩ := hi.openPass ha
  have hle : s.off ≤ s.len := BitVec.le_of_lt hlt
  have hn := unitLen_eq hle
  have hpos := unitLen_pos hlt
  have h16 := unitLen_le s.len s.off
  obtain ⟨hoff, hbound⟩ := advanceOff_toNat hle
  have hend := advanceOff_eq_len_iff hle
  exact {
    openPass := fun h => by
      have hne : advanceOff s.off (unitLen s.len s.off) ≠ s.len := by
        intro he; simp [he] at h
      have hne' := mt hend.mpr hne
      refine ⟨by simpa using hk, ?_, ?_⟩
      · simp only [completeCmd_off, completeCmd_len, streamBlock_off, streamBlock_len, BitVec.lt_def, hoff]
        omega
      · simp only [completeCmd_off, streamBlock_off, hoff]
        omega
    doneNotActive := fun h => by
      have hdone : s.done = false := by
        by_contra hd
        simp [hi.doneNotActive (by simpa using hd)] at ha
      by_cases he : advanceOff s.off (unitLen s.len s.off) = s.len
      · simp [he]
      · simp [he, hdone] at h
    lastNBound := by
      simp only [completeCmd_lastN, streamBlock_lastN, BitVec.le_def, toNat_ofNat_unitLen]
      exact h16
    lastNZero := by
      simp only [completeCmd_lastN, completeCmd_off, streamBlock_lastN, streamBlock_off, ← BitVec.toNat_inj,
        toNat_ofNat_unitLen, hoff]
      simp
      omega
    errBound := by simpa using hi.errBound
    schedule := by simpa using hi.schedule
    noSchedule := by simpa using hi.noSchedule
    pending := nofun }

theorem Inv.complete_streamAbort : Inv (completeCmd .streamAbort { s with active := false, done := false }) where
  openPass := nofun
  doneNotActive := nofun
  lastNBound := hi.lastNBound
  lastNZero := hi.lastNZero
  errBound := hi.errBound
  schedule := hi.schedule
  noSchedule := hi.noSchedule
  pending := nofun

/-- The core step of a command whose conditions hold keeps the invariants, under any parameters. -/
theorem Inv.complete_execWith {P : Params} {i : Instr} (hc : commandError i s = none)
    (h : execWith P i s = .next t) : Inv (completeCmd i t) := by
  cases i with
  | nop | blockEnc | blockDec | csumReset | csumAbsorb _ =>
    cases h
    exact hi.complete_of_pass_unchanged _ rfl rfl rfl rfl rfl rfl rfl hi.errBound
  | keyExpand => cases h; exact hi.complete_keyExpand (needsNoPass_eq_none.mp hc)
  | streamStart d => cases h; exact hi.complete_streamStart P d (needsNoPassAndKey_eq_none.mp hc).2
  | streamBlock => cases h; exact hi.complete_streamBlock P (needsPass_eq_none.mp hc)
  | streamAbort => cases h; exact hi.complete_streamAbort
  | zeroize =>
    cases h
    exact (inv_resetWith P).of_pass_unchanged rfl rfl rfl rfl rfl rfl rfl (inv_resetWith P).errBound nofun
  | errClear => cases h; exact hi.complete_of_pass_unchanged _ rfl rfl rfl rfl rfl rfl rfl (by simp)

/-- Every step keeps the invariants, under any parameters (R42). -/
theorem Inv.stepWith {P : Params} (h : stepWith P s = .next t) : Inv t := by
  have hturn : Inv (takeTurn s) := hi.of_host_side _ _ _
  rcases move_cases h with rfl | ⟨-, hb, i, u, hd, hu, rfl⟩ | ⟨-, st, rest, -, hact⟩
  · exact hturn
  · obtain ⟨j, hj, hc⟩ := hturn.pending hb
    obtain rfl : i = j := Except.ok.inj (hd.symm.trans hj)
    exact hturn.complete_execWith hc hu
  · exact (hturn.of_host_side rest _ _).hostAct hact

end Preservation

/-- Settles O60: one lemma per kind of move, and the invariants by the cases of a step. -/
theorem instanceMachineUsesParameters : Obligations.InstanceMachineUsesParameters := by
  intro P
  refine ⟨fun s i ⟨hm, hb, hd⟩ => ?_, fun s r rest hm hp => stepWith_read P hm hp,
    fun s rest hm hp => stepWith_host P hm hp, fun s h => ?_, resetWith_eq P, inv_resetWith P, fun s t hi h => hi.stepWith h, stepWith_params, coreWith_params⟩
  · obtain ⟨t, ht⟩ := execWith_next P i (takeTurn s)
    exact ⟨t, ht, stepWith_core P hm hb hd ht⟩
  · rw [← stepWith_params]
    rcases h with h | ⟨off, size, v, h⟩ <;> rw [stepWith_hostPerforms P h, stepWith_hostPerforms params h]
    · exact hostAct_eq_of_wait_or_write P params (.inl rfl) _
    · exact hostAct_eq_of_wait_or_write P params (.inr ⟨off, size, v, rfl⟩) _

end Sys2Proof.Machine

namespace Sys2Proof.Machine

/-! ## The invariants along a step and at reset (10_state.md R42, R44) -/

/-- Settles O41: `Inv.stepWith` at the default parameters. -/
theorem stepKeepsInvariants : Obligations.StepKeepsInvariants := by
  intro s t hi h
  rw [← stepWith_params] at h
  exact hi.stepWith h

/-- Settles O40: the reset record of the default parameters. -/
theorem resetSatisfiesInvariants : Obligations.ResetSatisfiesInvariants :=
  ⟨inv_resetWith params, by decide, by decide⟩

/-! ## What a command may write (10_state.md R47) -/

/-- A command's effect stays within its row of R47's table. -/
theorem execState_frame (i : Instr) (s : State) : FrameOf (writes i) s (execState i s) := by
  cases i with
  | streamBlock => exact streamBlock_frame params s
  | nop | keyExpand | blockEnc | blockDec | streamStart _ | streamAbort | csumReset | csumAbsorb _ | zeroize
    | errClear => constructor <;> simp [writes]

/-- Settles O25: `execState_frame`, for the state that `exec` answers. -/
theorem commandFrames : Obligations.CommandFrames := by
  intro i s t h
  rw [exec_next_iff.mp h]
  exact execState_frame i s

/-! The rows of R47's table read by column: which commands may write a field. -/

theorem writes_rkKv {i : Instr} : (writes i).rkKv = true ↔ i = .keyExpand ∨ i = .zeroize := by
  cases i <;> simp [writes]

theorem writes_din {i : Instr} : (writes i).din = true ↔ i = .zeroize := by
  cases i <;> simp [writes]

theorem writes_dout {i : Instr} :
    (writes i).dout = true ↔ i = .blockEnc ∨ i = .blockDec ∨ i = .streamBlock ∨ i = .zeroize := by
  cases i <;> simp [writes]

theorem writes_ctr {i : Instr} :
    (writes i).ctr = true ↔ (∃ d, i = .streamStart d) ∨ i = .streamBlock ∨ i = .zeroize := by
  cases i <;> simp [writes]

theorem writes_len {i : Instr} : (writes i).len = true ↔ i = .zeroize := by
  cases i <;> simp [writes]

theorem writes_off {i : Instr} :
    (writes i).off = true ↔ (∃ d, i = .streamStart d) ∨ i = .streamBlock ∨ i = .zeroize := by
  cases i <;> simp [writes]

theorem writes_err {i : Instr} : (writes i).err = true ↔ i = .errClear ∨ i = .zeroize := by
  cases i <;> simp [writes]

/-! ## The next move (70_reset_and_hazards.md R280, 20_memory.md R70) -/

/-- The step that performs a pending command. -/
theorem step_of_corePerforms {i : Instr} {s : State} (h : corePerforms i s) :
    step s = .next (completeCmd i (execState i (takeTurn s))) := by
  obtain ⟨hm, hb, hd⟩ := h
  rw [← stepWith_params]
  exact stepWith_core params hm hb hd ((execWith_params i _).trans (exec_eq_next i _))

/-- The step that is the host's next statement. -/
theorem step_of_prog_cons {s : State} {st : HostStmt} {rest : List HostStmt} (hm : mover s = .host)
    (hp : s.prog = st :: rest) : step s = hostAct params st { takeTurn s with prog := rest } := by
  rw [← stepWith_params]
  exact stepWith_host params hm hp

/-- The agent that has the turn cannot move (log 5). -/
def turnPasses (s : State) : Prop := mover s = .core ∧ s.busy = false ∨ mover s = .host ∧ s.prog = []

theorem step_of_turnPasses {s : State} (h : turnPasses s) : step s = .next (takeTurn s) := by
  rcases h with ⟨hm, hb⟩ | ⟨hm, hp⟩
  · simp [step_core hm, coreTurn, hb]
  · simp [step_host hm, hostTurn, hp]

/-- What the next move is: none, a command's core step, the fault of an Illegal PEND, or a host statement. -/
theorem nextMove_cases (s : State) :
    turnPasses s ∨ (∃ i, corePerforms i s) ∨ step s = .fault .pendingIllegal ∨
    (mover s = .host ∧ ∃ st rest, s.prog = st :: rest) := by
  cases hm : mover s with
  | core =>
    cases hb : s.busy with
    | false => exact .inl (.inl ⟨hm, hb⟩)
    | true =>
      cases hd : decode s.pend with
      | ok i => exact .inr (.inl ⟨i, hm, hb, hd⟩)
      | error e => exact .inr (.inr (.inl (by simp [step_core hm, coreTurn, hb, coreStep, hd])))
  | host =>
    cases hp : s.prog with
    | nil => exact .inl (.inr ⟨hm, hp⟩)
    | cons st rest => exact .inr (.inr (.inr ⟨rfl, st, rest, rfl⟩))

/-! ## The core step of ZEROIZE (44_control.md R224, 70_reset_and_hazards.md R272) -/

/-- The state a completed ZEROIZE leaves is the reset record, with the host's side as it was (log 7). -/
theorem completeCmd_zeroize (s : State) : completeCmd .zeroize (execState .zeroize s) =
    { State.reset with prog := s.prog, sched := s.sched, seen := s.seen } := rfl

/-- Settles O49: the state that `completeCmd_zeroize` gives. -/
theorem zeroizeLeavesResetRecord : Obligations.ZeroizeLeavesResetRecord := by
  intro s h
  refine ⟨_, step_of_corePerforms h, ?_⟩
  rw [completeCmd_zeroize]
  exact ⟨rfl, rfl, rfl, rfl⟩

theorem zeroBytes_getElem (n : Nat) (i : Fin n) : (zeroBytes n)[i] = 0x00#8 := by
  simp [zeroBytes]

theorem zeroRoundKeys_getElem (r : Fin 15) (i : Fin 16) : zeroRoundKeys[r][i] = 0x00#8 := by
  simp [zeroRoundKeys, zeroBytes]

/-- Settles O39: the reset record, which ZEROIZE's effect and its core step leave too. -/
theorem resetValues : Obligations.ResetValues := by
  unfold Obligations.ResetValues
  intro cleared idle
  have hcleared : ∀ t : State,
      t = { State.reset with busy := t.busy, pend := t.pend, prog := t.prog, sched := t.sched, seen := t.seen } →
      cleared t := by
    intro t ht
    rw [ht]
    exact ⟨zeroBytes_getElem 32, zeroRoundKeys_getElem, rfl,
      fun i => ⟨zeroBytes_getElem 16 i, zeroBytes_getElem 16 i, zeroBytes_getElem 16 i⟩,
      rfl, rfl, rfl, rfl, rfl, rfl, rfl, rfl⟩
  refine ⟨⟨hcleared _ rfl, rfl, rfl⟩, fun s => ⟨_, exec_zeroize s, hcleared _ rfl⟩, fun s h => ?_⟩
  refine ⟨_, step_of_corePerforms h, ?_⟩
  rw [completeCmd_zeroize]
  exact ⟨hcleared _ rfl, rfl, rfl⟩

end Sys2Proof.Machine

namespace Sys2Proof.Machine

/-! ## Register reads (10_state.md R33, 20_memory.md R63) -/

/-- The fields of the STATUS word by bit position (R33). -/
theorem status_getLsbD (s : State) {i : Nat} (hi : i < 32) : (status s).getLsbD i =
    if i < 1 then s.busy else if i < 2 then s.kv else if i < 3 then s.active else if i < 4 then s.done
    else if i < 5 then decide (s.dir = .decrypt) else if i < 8 then false else if i < 12 then s.err.getLsbD (i - 8)
    else if i < 16 then false else s.lastN.getLsbD (i - 16) := by
  simp only [status, BitVec.zeroExtend, BitVec.getLsbD_setWidth, BitVec.getLsbD_append]
  cases hd : s.dir <;> interval_cases i <;> simp

/-- Settles O31: the flags are bits of `status_getLsbD`, the wider fields follow from it bit by bit. -/
theorem statusWordFields : Obligations.StatusWordFields := by
  intro s
  have hbit (i : Fin 32) := status_getLsbD s i.isLt
  refine ⟨hbit 0, hbit 1, hbit 2, hbit 3, ?_, ?_, ?_, ?_, ?_, ?_⟩
  · rw [status_getLsbD s (by decide)]
    simp
  all_goals
    apply BitVec.eq_of_getLsbD_eq
    intro i hi
    rw [BitVec.getLsbD_extractLsb', status_getLsbD s (by omega)]
    interval_cases i <;> simp

theorem loHalf_toNat (x : DWord) : (loHalf x).toNat = x.toNat % 2 ^ 32 := by
  simp [loHalf]

theorem hiHalf_toNat (x : DWord) : (hiHalf x).toNat = x.toNat / 2 ^ 32 := by
  have := x.isLt
  simp [hiHalf, Nat.shiftRight_eq_div_pow]
  omega

/-- Settles O35: `laneWord_byte` for the byte registers, the halves for LEN and OFF, `regRead`'s equations for the rest. -/
theorem registerReadValues : Obligations.RegisterReadValues := by
  intro P s
  exact ⟨rfl, fun k b => ⟨laneWord_byte (n := 4) s.din k b, laneWord_byte (n := 4) s.dout k b, laneWord_byte (n := 4) s.ctr k b⟩,
    loHalf_toNat s.len, hiHalf_toNat s.len, loHalf_toNat s.off, hiHalf_toNat s.off, rfl, rfl, fun _ => rfl,
    fun _ => rfl⟩

/-! ## Register writes while BUSY = 0 (20_memory.md R64) -/

section IdleWrites

variable {s : State} (hb : s.busy = false)
include hb

theorem regWrite_of_idle (r : Reg) (v : Word) : regWrite r v s = idleWrite r v s := by
  simp [regWrite, hb]

theorem regWrite_key (k : Fin 8) (v : Word) :
    regWrite (.key k) v s = { s with key := setLaneWord (n := 8) s.key k v } := regWrite_of_idle hb _ _

theorem regWrite_din (k : Fin 4) (v : Word) :
    regWrite (.din k) v s = { s with din := setLaneWord (n := 4) s.din k v } := regWrite_of_idle hb _ _

theorem regWrite_lenLo (ha : s.active = false) (v : Word) :
    regWrite .lenLo v s = { s with len := setLoHalf s.len v } := by
  rw [regWrite_of_idle hb]
  simp [idleWrite, lenWrite, ha]

theorem regWrite_lenHi (ha : s.active = false) (v : Word) :
    regWrite .lenHi v s = { s with len := setHiHalf s.len v } := by
  rw [regWrite_of_idle hb]
  simp [idleWrite, lenWrite, ha]

end IdleWrites

/-- Settles O33: the bytes of the lane that the write stores. -/
theorem keyIsWriteOnly : Obligations.KeyIsWriteOnly := by
  intro P s v k
  refine ⟨rfl, fun hb => ?_⟩
  rw [regWrite_key hb]
  exact ⟨fun i => setLaneWord_getElem (n := 8) s.key k v i.val i.isLt, rfl⟩

/-- Settles O32: a lane or a half read after it was written, and after another was. -/
theorem dataRegistersReadBack : Obligations.DataRegistersReadBack := by
  intro P s v hb
  refine ⟨fun k j => ?_, fun k b => ?_, fun k => ?_, fun ha => ?_⟩
  · rw [regWrite_din hb]
    exact laneWord_setLaneWord (n := 4) s.din k j v
  · rw [regWrite_din hb]
    refine (laneWord_byte (n := 4) _ k b).symm.trans ?_
    rw [laneWord_setLaneWord, if_pos rfl]
  · rw [regWrite_din hb]
  · rw [regWrite_lenLo hb ha, regWrite_lenHi hb ha]
    exact ⟨loHalf_setLoHalf .., hiHalf_setLoHalf .., hiHalf_setHiHalf .., loHalf_setHiHalf .., rfl, rfl⟩

end Sys2Proof.Machine

namespace Sys2Proof.Machine

/-! ## What a step can change (20_memory.md R70, R64; 70_reset_and_hazards.md R280) -/

theorem regOffset_of_regSlots {k : Nat} {r : Reg} (h : regSlots[k]? = some r) : regOffset r = 4 * k := by
  have hslots : ∀ p ∈ regSlots.zipIdx, regOffset p.1 = 4 * p.2 := by decide
  exact hslots (r, k) (List.mem_zipIdx_iff_getElem?.mpr h)

/-- A register is reached by a word access at its own offset and by no other access (R61, R62). -/
theorem regAt_eq_some_iff {off size : Nat} {r : Reg} : regAt off size = some r ↔ size = 4 ∧ off = regOffset r := by
  constructor
  · intro h
    unfold regAt at h
    split at h
    · rename_i hport
      obtain ⟨hsize, halign, -⟩ := (portAccess_iff off size).mp hport
      have := regOffset_of_regSlots h
      exact ⟨hsize, by omega⟩
    · cases h
  · rintro ⟨rfl, rfl⟩
    exact regAt_regOffset r

/-- The moves of a step by what they change: the host's side alone; a command's effect; the whole record, by reset; ERR,
by a write that reports an error; KEY, DIN or LEN, by a write while BUSY = 0; PEND and BUSY, by an accepted command. -/
inductive StepKind (s : State) : State → Prop
  | hostSide (p : List HostStmt) (q : List Agent) (w : List Reading) :
      StepKind s { s with prog := p, sched := q, seen := w }
  | command {i : Instr} (h : corePerforms i s) : StepKind s (completeCmd i (execState i (takeTurn s)))
  | reset (h : hostPerforms .assertReset s) (p : List HostStmt) (q : List Agent) (w : List Reading) :
      StepKind s { State.reset with prog := p, sched := q, seen := w }
  | error {off size : Nat} {v : Word} (h : hostPerforms (.write off size v) s) (e : ErrCode) (p : List HostStmt)
      (q : List Agent) : StepKind s (raiseErr e { s with prog := p, sched := q })
  | keyWrite {k : Fin 8} (h : hostWritesIdle (.key k) s) (x : Key) (p : List HostStmt) (q : List Agent) :
      StepKind s { s with key := x, prog := p, sched := q }
  | dinWrite {k : Fin 4} (h : hostWritesIdle (.din k) s) (x : Block) (p : List HostStmt) (q : List Agent) :
      StepKind s { s with din := x, prog := p, sched := q }
  | lenWrite (ha : s.active = false) (h : hostWritesIdle .lenLo s ∨ hostWritesIdle .lenHi s) (l : DWord)
      (p : List HostStmt) (q : List Agent) : StepKind s { s with len := l, prog := p, sched := q }
  | accept {v : Word} {i : Instr} (h : hostPerforms (.write 0x00 4 v) s) (hd : decode v = .ok i)
      (hc : commandError i s = none) (p : List HostStmt) (q : List Agent) :
      StepKind s (acceptCmd v { s with prog := p, sched := q })

/-- A register write as a move of the host. -/
theorem stepKind_regWrite {s : State} {r : Reg} {v : Word} (h : hostPerforms (.write (regOffset r) 4 v) s)
    (p : List HostStmt) (q : List Agent) : StepKind s (regWrite r v { s with prog := p, sched := q }) := by
  have hidle (hb : s.busy = false) : hostWritesIdle r s := ⟨hb, v, h⟩
  rcases regWrite_cases r v { s with prog := p, sched := q } with ⟨-, e⟩ | ⟨hb, e⟩ <;> rw [e]
  · exact .error h .busy p q
  rcases idleWrite_cases r v { s with prog := p, sched := q } with
    ⟨c, e⟩ | e | ⟨k, rfl, e⟩ | ⟨k, rfl, e⟩ | ⟨ha, hr, l, e⟩ | ⟨rfl, i, hd, hc, e⟩ <;> rw [e]
  · exact .error h c p q
  · exact .hostSide p q s.seen
  · exact .keyWrite (s := s) (hidle hb) _ p q
  · exact .dinWrite (s := s) (hidle hb) _ p q
  · refine .lenWrite (s := s) ha ?_ l p q
    rcases hr with rfl | rfl
    · exact .inl (hidle hb)
    · exact .inr (hidle hb)
  · exact .accept h hd ((commandError_congr i rfl rfl rfl).trans hc) p q

/-- Every step that answers a next state is one of the moves of `StepKind`. -/
theorem stepKind_of_step {s t : State} (h : step s = .next t) : StepKind s t := by
  rcases step_cases h with rfl | ⟨hm, hb, i, hd, rfl⟩ | ⟨hm, st, rest, hp, hact⟩
  · exact .hostSide s.prog s.sched.tail s.seen
  · exact .command ⟨hm, hb, hd⟩
  have hst : hostPerforms st s := ⟨hm, by rw [hp]; rfl⟩
  rcases hostAct_cases hact with ⟨off, size, r, -, -, rfl⟩ | ⟨off, size, v, r, rfl, hr, rfl⟩ | ⟨-, rfl⟩ | ⟨rfl, rfl⟩
  · exact .hostSide rest s.sched.tail _
  · obtain ⟨rfl, rfl⟩ := regAt_eq_some_iff.mp hr
    exact stepKind_regWrite hst rest s.sched.tail
  · exact .hostSide _ s.sched.tail _
  · exact .reset hst rest s.sched.tail s.seen

/-- Settles O44: of the moves of `StepKind`, accepting a command alone sets BUSY; a command's end and reset clear it. -/
theorem busyTransitions : Obligations.BusyTransitions := by
  intro s t h
  cases stepKind_of_step h with
  | command hi => exact ⟨nofun, fun _ _ => .inl ⟨_, hi⟩⟩
  | reset hr => exact ⟨nofun, fun _ _ => .inr hr⟩
  | accept hw hd hc => exact ⟨fun _ _ => ⟨_, _, hw, hd, hc, rfl⟩, nofun⟩
  | error | hostSide | keyWrite | dinWrite | lenWrite => simp +contextual

/-- Settles O45: of the moves of `StepKind`, a reported error, ERR_CLEAR, ZEROIZE and reset alone write ERR. -/
theorem errIsSticky : Obligations.ErrIsSticky := by
  intro s t h hne
  cases stepKind_of_step h with
  | @command i hi =>
    have hf := execState_frame i (takeTurn s)
    rcases writes_err.mp (Bool.of_not_eq_false (mt hf.err hne)) with rfl | rfl
    · exact .inr ⟨rfl, .inl hi⟩
    · exact .inr ⟨rfl, .inr (.inl hi)⟩
  | reset hr => exact .inr ⟨rfl, .inr (.inr hr)⟩
  | error hw =>
    refine .inl ⟨?_, _, _, _, hw⟩
    by_contra hs
    exact hne ((raiseErr_err _ _).trans (if_neg hs))
  | hostSide | keyWrite | dinWrite | lenWrite | accept => exact absurd rfl hne

/-- Settles O43: the rows of R47's table for a command; a register write for DIN and LEN. -/
theorem onlyNamedMovesWrite : Obligations.OnlyNamedMovesWrite := by
  intro s t h
  cases stepKind_of_step h with
  | @command i hi =>
    have hf := execState_frame i (takeTurn s)
    refine ⟨fun hne => ?_, fun hne => ?_, fun hne => ?_, fun hne => ?_, fun hne => ?_, fun hne => ?_⟩
    · have hw : (writes i).rkKv = true :=
        Bool.of_not_eq_false fun hw => hne.elim (absurd (hf.rk hw)) (absurd (hf.kv hw))
      rcases writes_rkKv.mp hw with rfl | rfl
      · exact .inr hi
      · exact .inl (.inl hi)
    · obtain rfl := writes_din.mp (Bool.of_not_eq_false (mt hf.din hne))
      exact .inl (.inl hi)
    · rcases writes_dout.mp (Bool.of_not_eq_false (mt hf.dout hne)) with rfl | rfl | rfl | rfl
      · exact .inr (.inl hi)
      · exact .inr (.inr (.inl hi))
      · exact .inr (.inr (.inr hi))
      · exact .inl (.inl hi)
    · rcases writes_ctr.mp (Bool.of_not_eq_false (mt hf.ctr hne)) with ⟨d, rfl⟩ | rfl | rfl
      · exact .inr (.inl ⟨d, hi⟩)
      · exact .inr (.inr hi)
      · exact .inl (.inl hi)
    · obtain rfl := writes_len.mp (Bool.of_not_eq_false (mt hf.len hne))
      exact .inl (.inl hi)
    · rcases writes_off.mp (Bool.of_not_eq_false (mt hf.off hne)) with ⟨d, rfl⟩ | rfl | rfl
      · exact .inr (.inl ⟨d, hi⟩)
      · exact .inr (.inr hi)
      · exact .inl (.inl hi)
  | reset hr => simp [hr]
  | dinWrite hw => simpa using fun _ => Or.inr ⟨_, hw⟩
  | lenWrite ha hw => simpa [ha] using fun _ => Or.inr hw
  | error | hostSide | keyWrite | accept => simp

end Sys2Proof.Machine

namespace Sys2Proof.Machine

/-! ## Runs -/

section Runs

variable {M : Host.Core} {n : Nat} {s t : M.State}

/-- A run of one step more, the new step first. -/
theorem run_succ_of_step (h : M.step s = .next t) : M.run (n + 1) s = M.run n t := by
  rw [Host.Core.run, h]

/-- The steps of a run that answers a next state: the first one, then the rest. -/
theorem step_of_run_succ (h : M.run (n + 1) s = .next t) : ∃ u, M.step s = .next u ∧ M.run n u = .next t := by
  rw [Host.Core.run] at h
  split at h
  · rename_i u hstep
    exact ⟨u, hstep, h⟩
  · cases h
  · cases h

/-- The steps of a run that answers a next state: all but the last one, then the last. -/
theorem run_of_run_succ (h : M.run (n + 1) s = .next t) : ∃ u, M.run n s = .next u ∧ M.step u = .next t := by
  induction n generalizing s with
  | zero =>
    obtain ⟨u, hu, hrun⟩ := step_of_run_succ h
    cases hrun
    exact ⟨s, rfl, hu⟩
  | succ n ih =>
    obtain ⟨w, hw, hrun⟩ := step_of_run_succ h
    obtain ⟨u, hu, hstep⟩ := ih hrun
    exact ⟨u, (run_succ_of_step hw).trans hu, hstep⟩

end Runs

/-- The invariants hold along every run. -/
theorem Inv.run {n : Nat} {s t : State} (hi : Inv s) (h : core.run n s = .next t) : Inv t := by
  induction n generalizing t with
  | zero => cases h; exact hi
  | succ n ih =>
    obtain ⟨u, hu, hstep⟩ := run_of_run_succ h
    exact stepKeepsInvariants u t (ih hu) hstep

/-! ## DONE and OFF (10_state.md R32, R36, R42) -/

/-- STREAM_BLOCK at OFF = LEN is a unit of length 0, which leaves OFF there (log 11). -/
theorem streamBlock_off_of_off_eq_len (P : Params) {s : State} (h : s.off = s.len) :
    (streamBlock P s).off = s.len := by
  have hn : unitLen s.len s.len = 0 := by simp [unitLen]
  have hlt := s.len.isLt
  rw [streamBlock_off, h, hn]
  simp [advanceOff, hlt]

/-- A command that leaves DONE = 1 ends a pass at OFF = LEN, or found DONE = 1: STREAM_BLOCK, which is not accepted then,
or a command that leaves OFF and LEN alone. -/
theorem execState_done {i : Instr} {s : State} (ht : (execState i s).done = true) :
    (execState i s).off = (execState i s).len ∨
    (s.done = true ∧ (i = .streamBlock ∨ (execState i s).off = s.off ∧ (execState i s).len = s.len)) := by
  have hf := execState_frame i s
  cases i with
  | streamStart d =>
    have hlen : s.len = 0 := by simpa using ht
    simp [hlen]
  | streamBlock =>
    by_cases hend : advanceOff s.off (unitLen s.len s.off) = s.len
    · simp [hend]
    · exact .inr ⟨by simpa [hend] using ht, .inl rfl⟩
  | nop | keyExpand | blockEnc | blockDec | csumReset | csumAbsorb _ | errClear =>
    exact .inr ⟨(hf.done rfl).symm.trans ht, .inr ⟨hf.off rfl, hf.len rfl⟩⟩
  | streamAbort | zeroize => cases ht

/-- Settles O51: a command by `execState_done`; of the other moves a LEN write alone touches DONE, OFF or LEN. -/
theorem doneMarksWholeStream : Obligations.DoneMarksWholeStream := by
  intro s t hs h
  cases stepKind_of_step h with
  | @command i _ =>
    refine .inl fun ht => ?_
    rcases execState_done (s := takeTurn s) ht with hend | ⟨hd, rfl | ⟨hoff, hlen⟩⟩
    · exact hend
    · exact (streamBlock_off_of_off_eq_len params (s := takeTurn s) (hs hd)).trans (streamBlock_len params _).symm
    · exact hoff.trans ((hs hd).trans hlen.symm)
  | reset => exact .inl nofun
  | error => exact .inl (by simpa using hs)
  | lenWrite ha hw =>
    by_cases hd : s.done = true
    · exact .inr ⟨hd, ha, hw⟩
    · exact .inl fun ht => absurd ht hd
  | hostSide | keyWrite | dinWrite | accept => exact .inl hs

/-- STREAM_BLOCK is not pending while DONE = 1: it was accepted with a pass open. -/
theorem Inv.done_of_streamBlock {s : State} (hi : Inv s) (h : corePerforms .streamBlock s) : s.done = false := by
  obtain ⟨-, hb, hd⟩ := h
  obtain ⟨i, hi', hc⟩ := hi.pending hb
  obtain rfl : .streamBlock = i := Except.ok.inj (hd.symm.trans hi')
  have ha : s.active = true := needsPass_eq_none.mp hc
  exact Bool.of_not_eq_true fun hdone => by simp [hi.doneNotActive hdone] at ha

/-- With the invariants, a step that leaves DONE = 1 kept it and OFF, or left OFF = LEN. -/
theorem Inv.step_done {s t : State} (hi : Inv s) (h : step s = .next t) (ht : t.done = true) :
    (s.done = true ∧ t.off = s.off) ∨ t.off = t.len := by
  cases stepKind_of_step h with
  | @command i hp =>
    rcases execState_done (s := takeTurn s) ht with hend | ⟨hd, rfl | ⟨hoff, -⟩⟩
    · exact .inr hend
    · exact absurd (hd.symm.trans (hi.done_of_streamBlock hp)) nofun
    · exact .inl ⟨hd, hoff⟩
  | reset => cases ht
  | error => exact .inl (by simpa using ht)
  | hostSide | keyWrite | dinWrite | lenWrite | accept => exact .inl ⟨ht, rfl⟩

/-- Settles O52: by induction on the run, from `Inv.step_done` at its last step. -/
theorem doneKeepsPassLength : Obligations.DoneKeepsPassLength := by
  intro n s t hi hs h ht
  induction n generalizing t with
  | zero =>
    cases h
    refine ⟨0, s, le_rfl, rfl, ht, hs ht, fun k v _ hk hv => ?_⟩
    obtain rfl : k = 0 := by omega
    cases hv
    exact ⟨ht, hs ht⟩
  | succ n ih =>
    obtain ⟨w, hw, hstep⟩ := run_of_run_succ h
    rcases (hi.run hw).step_done hstep ht with ⟨hwd, hoff⟩ | hoff
    · obtain ⟨m, u, hm, hu, hud, huoff, hkeep⟩ := ih w hw hwd
      refine ⟨m, u, by omega, hu, hud, huoff, fun k v hmk hk hv => ?_⟩
      rcases Nat.lt_or_ge n k with hlast | hle
      · obtain rfl : k = n + 1 := by omega
        obtain rfl : v = t := by rw [h] at hv; cases hv; rfl
        exact ⟨ht, hoff.trans (hkeep n w hm le_rfl hw).2⟩
      · exact hkeep k v hmk hle hv
    · refine ⟨n + 1, t, le_rfl, h, ht, hoff, fun k v hmk hk hv => ?_⟩
      obtain rfl : k = n + 1 := by omega
      obtain rfl : v = t := by rw [h] at hv; cases hv; rfl
      exact ⟨ht, hoff⟩

/-- A pass over no data, which STREAM_START completes at once, then a write of LEN. -/
def lenAfterPass : List HostStmt := doCmd .keyExpand ++ doCmd (.streamStart .encrypt) ++ setLen 5

/-- Settles O50: the run of `lenAfterPass`. -/
theorem doneDoesNotLockLen : Obligations.DoneDoesNotLockLen :=
  ⟨lenAfterPass, 7, _, rfl, rfl, by decide, rfl, rfl⟩

/-! ## LOADKEY (30_encoding.md R90) -/

/-- KEY after its words were written in the order given. -/
def keyAfterWrites (order : List (Fin 8)) (k x : Key) : Key :=
  order.foldl (fun y j => setLaneWord (n := 8) y j (laneWord (n := 8) k j)) x

/-- The host's write of a KEY word, with an empty schedule. -/
theorem step_keyWrite {s : State} {j : Fin 8} {v : Word} {rest : List HostStmt} (hb : s.busy = false)
    (hsched : s.sched = []) (hp : s.prog = wr (.key j) v :: rest) :
    step s = .next { s with key := setLaneWord (n := 8) s.key j v, prog := rest } := by
  have hm : mover s = .host := by simp [mover_nil hsched, hb]
  rw [step_of_prog_cons hm hp, mover_takeTurn_nil hsched]
  simp only [hostAct, wr, regAt_regOffset]
  exact congrArg _ (regWrite_key (s := { s with prog := rest }) hb j v)

/-- LOADKEY's writes, by induction on the order. -/
theorem run_loadKeyIn (order : List (Fin 8)) (k : Key) {s : State} {rest : List HostStmt} (hb : s.busy = false)
    (hsched : s.sched = []) (hp : s.prog = loadKeyIn order k ++ rest) :
    core.run order.length s = .next { s with key := keyAfterWrites order k s.key, prog := rest } := by
  induction order generalizing s with
  | nil =>
    obtain rfl : s.prog = rest := hp
    rfl
  | cons j order ih =>
    have hstep := step_keyWrite (rest := loadKeyIn order k ++ rest) hb hsched hp
    exact (run_succ_of_step (M := core) hstep).trans (ih hb hsched rfl)

/-- Each word written is the key's, whatever the order; the others are as before. -/
theorem laneWord_keyAfterWrites (order : List (Fin 8)) (k x : Key) (j : Fin 8) :
    laneWord (n := 8) (keyAfterWrites order k x) j =
      if j ∈ order then laneWord (n := 8) k j else laneWord (n := 8) x j := by
  induction order generalizing x with
  | nil => rfl
  | cons i order ih =>
    rw [keyAfterWrites, List.foldl_cons, ← keyAfterWrites, ih, laneWord_setLaneWord]
    by_cases hj : j = i
    · subst hj
      simp
    · simp [hj]

/-- A byte sequence is its lane words. -/
theorem eq_of_laneWord_eq {n : Nat} {x y : Bytes (4 * n)} (h : ∀ j, laneWord x j = laneWord y j) : x = y := by
  apply Vector.ext
  intro i hi
  have hx := laneWord_byte x ⟨i / 4, by omega⟩ ⟨i % 4, by omega⟩
  have hy := laneWord_byte y ⟨i / 4, by omega⟩ ⟨i % 4, by omega⟩
  simp only [Nat.div_add_mod] at hx hy
  rw [← hx, ← hy, h]

/-- Settles O38: the words that the run writes are all eight words of KEY. -/
theorem loadKeyAnyOrder : Obligations.LoadKeyAnyOrder := by
  intro order k s rest hperm hb hsched hp
  have hlen : order.length = 8 := by simpa using hperm.length_eq
  have hkey : keyAfterWrites order k s.key = k := by
    refine eq_of_laneWord_eq (n := 8) fun j => ?_
    rw [laneWord_keyAfterWrites, if_pos (hperm.mem_iff.mpr (List.mem_finRange j))]
  have hrun := run_loadKeyIn order k hb hsched hp
  rwa [hlen, hkey] at hrun

end Sys2Proof.Machine

namespace Sys2Proof.Machine

/-! ## KEY influences nothing else (10_state.md R24, 20_memory.md R73, 60_exceptions.md R257) -/

section OtherKey

variable (s : State) (k : Key)

theorem raiseErr_sameButKey (e : ErrCode) : sameButKey (raiseErr e s) (raiseErr e { s with key := k }) := by
  rw [raiseErr_eq, raiseErr_eq]
  rfl

/-- Acceptance reads ERR, ACTIVE, KV and DONE, not KEY (60_exceptions.md R240). -/
theorem commandWrite_sameButKey (v : Word) : sameButKey (commandWrite v s) (commandWrite v { s with key := k }) := by
  have hcond (i : Instr) : commandError i { s with key := k } = commandError i s := commandError_congr i rfl rfl rfl
  simp only [commandWrite, commandCheck, hcond]
  split
  · split
    · split <;> rfl
    · rfl
  · split
    · split
      · exact raiseErr_sameButKey s k _
      · rfl
    · exact raiseErr_sameButKey s k _

theorem lenWrite_sameButKey (l : DWord) : sameButKey (lenWrite l s) (lenWrite l { s with key := k }) := by
  simp only [lenWrite]
  split
  · exact raiseErr_sameButKey s k _
  · rfl

/-- A write puts nothing of the old KEY outside KEY. -/
theorem regWrite_sameButKey (r : Reg) (v : Word) :
    sameButKey (regWrite r v s) (regWrite r v { s with key := k }) := by
  simp only [regWrite]
  split
  · exact raiseErr_sameButKey s k _
  cases r with
  | cmd => exact commandWrite_sameButKey s k v
  | lenLo => exact lenWrite_sameButKey s k _
  | lenHi => exact lenWrite_sameButKey s k _
  | key _ | din _ | status | dout _ | ctr _ | csum | offLo | offHi | reserved _ => rfl

/-- No register shows KEY. -/
theorem regRead_of_key (P : Params) (r : Reg) : regRead P r { s with key := k } = regRead P r s := by
  cases r <;> rfl

/-- A host statement that answers a next state makes the same move under another KEY, and reads the same word. -/
theorem hostAct_sameButKey {P : Params} {st : HostStmt} {t : State} (h : hostAct P st s = .next t) :
    ∃ t', hostAct P st { s with key := k } = .next t' ∧ sameButKey t t' := by
  rcases hostAct_cases h with ⟨off, size, r, rfl, hr, rfl⟩ | ⟨off, size, v, r, rfl, hr, rfl⟩ | ⟨rfl, rfl⟩ | ⟨rfl, rfl⟩
  · simp only [hostAct, hr, regRead_of_key]
    exact ⟨_, rfl, rfl⟩
  · simp only [hostAct, hr]
    exact ⟨_, rfl, regWrite_sameButKey s k r v⟩
  · simp only [hostAct, regRead_of_key]
    refine ⟨_, rfl, ?_⟩
    split <;> rfl
  · exact ⟨_, rfl, rfl⟩

/-- Of the commands KEY_EXPAND alone reads KEY. -/
theorem execState_sameButKey {i : Instr} (hi : i ≠ .keyExpand) :
    sameButKey (execState i s) (execState i { s with key := k }) := by
  cases i with
  | keyExpand => exact absurd rfl hi
  | streamStart d =>
    simp only [execState_streamStart, streamStart_eq]
    rfl
  | streamBlock =>
    simp only [execState_streamBlock, streamBlock, endOfUnitFlags]
    split <;> rfl
  | nop | blockEnc | blockDec | streamAbort | csumReset | csumAbsorb _ | zeroize | errClear => rfl

end OtherKey

theorem completeCmd_sameButKey (i : Instr) {s t : State} (h : sameButKey s t) :
    sameButKey (completeCmd i s) (completeCmd i t) := by
  unfold sameButKey at h
  rw [h]
  rfl

/-- Settles O47: the same agent moves in both states, and makes the same move. -/
theorem keyIsNotObservable : Obligations.KeyIsNotObservable := by
  intro s s₂ t h hne ht
  obtain ⟨k, rfl⟩ : ∃ k, s₂ = { s with key := k } := ⟨s₂.key, h⟩
  rcases nextMove_cases s with hpass | ⟨i, hi⟩ | hfault | ⟨hm, st, rest, hp⟩
  · rw [step_of_turnPasses hpass] at ht
    cases ht
    exact ⟨_, step_of_turnPasses hpass, rfl⟩
  · rw [step_of_corePerforms hi] at ht
    cases ht
    have hkey : i ≠ .keyExpand := fun he => hne (he ▸ hi)
    exact ⟨_, step_of_corePerforms hi, completeCmd_sameButKey i (execState_sameButKey _ k hkey)⟩
  · rw [hfault] at ht
    cases ht
  · rw [step_of_prog_cons hm hp] at ht
    obtain ⟨t₂, ht₂, hsame⟩ := hostAct_sameButKey _ k ht
    exact ⟨t₂, (step_of_prog_cons (s := { s with key := k }) hm hp).trans ht₂, hsame⟩

end Sys2Proof.Machine

namespace Sys2Proof.Machine

/-! ## Port accesses (20_memory.md R61, R62) -/

/-- The window is the 32 aligned word addresses, and every one of them is a register (R60, R61). -/
theorem regAt_eq_none_iff {off size : Nat} : regAt off size = none ↔ ¬ (size = 4 ∧ off % 4 = 0 ∧ off ≤ 0x7C) := by
  rw [← portAccess_iff, regAt]
  split
  · rename_i hport
    obtain ⟨-, -, hwindow⟩ := (portAccess_iff off size).mp hport
    have hslots : regSlots.length = 32 := rfl
    simp only [hport, not_true_eq_false, iff_false, List.getElem?_eq_none_iff]
    omega
  · rename_i hport
    simp [hport]

/-- An access that reaches no register is refused, a read as well as a write (R61). -/
theorem hostAct_refused (P : Params) (s : State) {off size : Nat} (h : regAt off size = none) :
    hostAct P (.read off size) s = .refused .portAccess ∧
      ∀ v, hostAct P (.write off size v) s = .refused .portAccess := by
  simp [hostAct, h]

/-- Settles O34: `regAt` at a register's offset and nowhere else, and what the host's move is where it is undefined. -/
theorem registerMapExact : Obligations.RegisterMapExact := by
  refine ⟨fun off size r => regAt_eq_some_iff, fun off size => regAt_eq_none_iff, fun s off size v rest hm hbad hp => ?_⟩
  obtain ⟨hread, hwrite⟩ := hostAct_refused params { takeTurn s with prog := rest } (regAt_eq_none_iff.mpr hbad)
  rcases hp with hp | hp <;> rw [step_of_prog_cons hm hp]
  · exact hread
  · exact hwrite v

/-- Settles O37: `idleWrite` stores in no read-only or reserved register. -/
theorem readOnlyRegistersIgnoreWrites : Obligations.ReadOnlyRegistersIgnoreWrites := by
  refine fun P s r v => ⟨fun hr hb => ?_, fun hr => ?_⟩
  · rw [regWrite_of_idle hb]
    rcases hr with rfl | ⟨k, rfl⟩ | ⟨k, rfl⟩ | rfl | rfl | rfl | ⟨k, rfl⟩ <;> rfl
  · rcases hr with ⟨k, rfl⟩ | rfl <;> rfl

/-! ## Host reads (20_memory.md R63, R68; 30_encoding.md R90) -/

theorem step_read {s : State} {r : Reg} {rest : List HostStmt} (hm : mover s = .host)
    (hp : s.prog = rd r :: rest) : step s = .next { s with
      prog := rest, sched := s.sched.tail, seen := ⟨regOffset r, regRead params r s⟩ :: s.seen } := by
  rw [← stepWith_params]
  exact stepWith_read params hm hp

theorem hostAct_wait (P : Params) (s : State) : hostAct P .wait s =
    .next { logRead 0x04 (status s) s with prog := if s.busy then .wait :: s.prog else s.prog } := by
  unfold hostAct
  cases s.busy <;> rfl

/-- A poll of WAIT is a read of STATUS, and WAIT stays the next statement exactly while BUSY = 1 (R90). -/
theorem step_wait {s : State} {rest : List HostStmt} (hm : mover s = .host) (hp : s.prog = .wait :: rest) :
    step s = .next { s with
      prog := if s.busy then .wait :: rest else rest, sched := s.sched.tail
      seen := ⟨0x04, status s⟩ :: s.seen } := by
  rw [step_of_prog_cons hm hp, hostAct_wait]
  rfl

/-- The host takes the next `n` moves: by the schedule, or, with an empty one, because BUSY = 0 (log 3). -/
def hostHasTurns (n : Nat) (s : State) : Prop :=
  s.sched.take n = List.replicate n .host ∨ s.sched = [] ∧ s.busy = false

/-- The first of these moves, whatever it does to the statements and the read log, leaves the others to the host. -/
theorem hostHasTurns_succ {n : Nat} {s : State} (h : hostHasTurns (n + 1) s) (p : List HostStmt) (w : List Reading) :
    mover s = .host ∧ hostHasTurns n { s with prog := p, sched := s.sched.tail, seen := w } := by
  rcases h with h | ⟨hsched, hb⟩
  · cases hq : s.sched with
    | nil => simp [hq, List.replicate_succ] at h
    | cons a q =>
      rw [hq, List.take_succ_cons, List.replicate_succ, List.cons.injEq] at h
      obtain ⟨rfl, htail⟩ := h
      exact ⟨mover_cons hq, .inl htail⟩
  · exact ⟨by simp [mover_nil hsched, hb], .inr ⟨by simp [hsched], hb⟩⟩

/-- What the host has read after the reads of `regs`, newest first. -/
def readings (regs : List Reg) (s : State) : List Reading :=
  regs.reverse.map fun r => ⟨regOffset r, regRead params r s⟩

/-- A list of reads changes the host's side alone, by induction on the list. -/
theorem run_reads (regs : List Reg) {s : State} {rest : List HostStmt} (h : hostHasTurns regs.length s)
    (hp : s.prog = regs.map rd ++ rest) : core.run regs.length s = .next { s with
      prog := rest, sched := s.sched.drop regs.length, seen := readings regs s ++ s.seen } := by
  induction regs generalizing s with
  | nil =>
    obtain rfl : s.prog = rest := hp
    rfl
  | cons r regs ih =>
    obtain ⟨hm, hturns⟩ := hostHasTurns_succ h (regs.map rd ++ rest) (⟨regOffset r, regRead params r s⟩ :: s.seen)
    refine (run_succ_of_step (M := core) (step_read hm hp)).trans ((ih hturns rfl).trans ?_)
    simp [readings, regRead_of_host_side]

/-- The words of DOUT0 to DOUT3, the last four read, are the bytes of DOUT (10_state.md R23). -/
theorem readDoutBytes_readings (s : State) (w : List Reading) :
    readDoutBytes (readings [.dout 0, .dout 1, .dout 2, .dout 3] s ++ w) = some s.dout :=
  congrArg some (unpackWords_laneWord s.dout)

/-- Settles O36: one read, one poll, and `run_reads` for READDOUT. -/
theorem readsHaveNoSideEffect : Obligations.ReadsHaveNoSideEffect :=
  ⟨fun _ _ _ => step_read, fun _ _ => step_wait,
    fun s _ h hp => ⟨_, run_reads [.dout 0, .dout 1, .dout 2, .dout 3] h hp, readDoutBytes_readings s _, rfl⟩,
    fun _ _ => rfl⟩

end Sys2Proof.Machine

namespace Sys2Proof.Machine

/-! ## An accepted command (30_encoding.md R85; 60_exceptions.md R240, R244) -/

/-- The word of an instruction decodes to it (R85, R86). -/
theorem decode_encode (i : Instr) : decode (encode i) = .ok i := by
  cases i with
  | streamStart d => cases d <;> decide
  | csumAbsorb b =>
    obtain ⟨hop, hbit, hlow, himm, hhigh⟩ := encode_csumAbsorb_fields b
    simp only [decode, hop, hbit, hlow, himm, hhigh]
    rfl
  | nop | keyExpand | blockEnc | blockDec | streamBlock | streamAbort | csumReset | zeroize | errClear => decide

theorem passesStickyHold_iff {i : Instr} : passesStickyHold i = true ↔ i = .nop ∨ i = .zeroize ∨ i = .errClear := by
  cases i <;> simp [passesStickyHold]

/-- When a CMD write is accepted: its command is not held back, and its own conditions hold. -/
theorem commandWrite_eq_acceptCmd {v : Word} {i : Instr} {s : State} (hd : decode v = .ok i)
    (hsticky : s.err = 0 ∨ passesStickyHold i = true) (hc : commandError i s = none) :
    commandWrite v s = acceptCmd v s := by
  by_cases herr : s.err = 0
  · simp [commandWrite, herr, hd, commandCheck, hc]
  · rw [commandWrite, if_pos herr, hd]
    exact if_pos (hsticky.resolve_left herr)

/-- The host's write of an acceptable command. -/
theorem step_cmd {s : State} {i : Instr} {rest : List HostStmt} (hm : mover s = .host) (hb : s.busy = false)
    (hsticky : s.err = 0 ∨ passesStickyHold i = true) (hc : commandError i s = none) (hp : s.prog = cmd i :: rest) :
    step s = .next { s with pend := encode i, busy := true, prog := rest, sched := s.sched.tail } := by
  rw [step_of_prog_cons hm hp]
  simp only [hostAct, cmd, wr, regAt_regOffset]
  rw [regWrite_of_idle (s := { takeTurn s with prog := rest }) hb]
  exact congrArg _ (commandWrite_eq_acceptCmd (decode_encode i) hsticky ((commandError_congr i rfl rfl rfl).trans hc))

/-- A command's effect neither reads nor writes the host's side (log 1). -/
theorem execState_of_host_side (i : Instr) (s : State) (p : List HostStmt) (q : List Agent) (w : List Reading) :
    execState i { s with prog := p, sched := q, seen := w } = { execState i s with prog := p, sched := q, seen := w } := by
  cases i with
  | streamStart d => simp only [execState_streamStart, streamStart_eq]
  | streamBlock =>
    simp only [execState_streamBlock, streamBlock, endOfUnitFlags]
    split <;> rfl
  | nop | keyExpand | blockEnc | blockDec | streamAbort | csumReset | csumAbsorb _ | zeroize | errClear => rfl

/-! ## Progress (20_memory.md R70, R71; 70_reset_and_hazards.md R280) -/

theorem run_add {M : Host.Core} {m n : Nat} {s t : M.State} (h : M.run m s = .next t) :
    M.run (m + n) s = M.run n t := by
  induction m generalizing s with
  | zero =>
    cases h
    rw [Nat.zero_add]
  | succ m ih =>
    obtain ⟨u, hu, hrun⟩ := step_of_run_succ h
    rw [Nat.succ_add, run_succ_of_step hu, ih hrun]

/-- `t` is reached from `s`, up to the schedule left and the words read, in at most `k` moves more than the schedule
entries used up. -/
def reachedWithin (k : Nat) (s t : State) : Prop :=
  ∃ n q w, n + q.length ≤ s.sched.length + k ∧ core.run n s = .next { t with sched := q, seen := w }

theorem reachedWithin.trans {k l : Nat} {s t u : State} (h : reachedWithin k s t)
    (hnext : ∀ q w, reachedWithin l { t with sched := q, seen := w } u) : reachedWithin (k + l) s u := by
  obtain ⟨m, q, w, hm, hrun⟩ := h
  obtain ⟨n, q', w', hn, hrun'⟩ := hnext q w
  have hn' : n + q'.length ≤ q.length + l := hn
  exact ⟨m + n, q', w', by omega, (run_add hrun).trans hrun'⟩

/-- The agent that has something to do: the core while a command is pending, else the host. -/
def awaited (s : State) : Agent := if s.busy then .core else .host

/-- While the host only polls for a pending command, a turn of the agent that is not awaited uses up a schedule entry and
adds at most a word to the read log. -/
theorem step_of_mover_ne_awaited {s : State} (hwait : s.busy = true → ∃ rest, s.prog = .wait :: rest)
    (hm : mover s ≠ awaited s) : ∃ w, step s = .next { s with sched := s.sched.tail, seen := w } := by
  cases hagent : mover s with
  | core =>
    have hb : s.busy = false := by simpa [awaited, hagent] using hm
    exact ⟨_, step_of_turnPasses (.inl ⟨hagent, hb⟩)⟩
  | host =>
    have hb : s.busy = true := by simpa [awaited, hagent] using hm
    obtain ⟨rest, hp⟩ := hwait hb
    exact ⟨_, (step_wait hagent hp).trans (by rw [if_pos hb, ← hp])⟩

/-- The awaited agent gets its turn, at the latest when the schedule is used up (log 3), by induction on the schedule. -/
theorem run_until_awaited {s : State} (hwait : s.busy = true → ∃ rest, s.prog = .wait :: rest) :
    ∃ n q w, n + q.length ≤ s.sched.length ∧ core.run n s = .next { s with sched := q, seen := w } ∧
      mover { s with sched := q, seen := w } = awaited s := by
  induction hq : s.sched generalizing s with
  | nil => exact ⟨0, s.sched, s.seen, by simp [hq], rfl, mover_nil hq⟩
  | cons a q ih =>
    by_cases hm : mover s = awaited s
    · exact ⟨0, s.sched, s.seen, by simp [hq], rfl, hm⟩
    obtain ⟨w, hstep⟩ := step_of_mover_ne_awaited hwait hm
    obtain ⟨n, q', w', hn, hrun, hmover⟩ := ih (s := { s with sched := s.sched.tail, seen := w }) hwait (by simp [hq])
    exact ⟨n + 1, q', w', by rw [List.length_cons]; omega, (run_succ_of_step (M := core) hstep).trans hrun, hmover⟩

/-- A move of the awaited agent, made whenever its turn comes. -/
theorem reachedWithin_of_awaited {s t : State} (hwait : s.busy = true → ∃ rest, s.prog = .wait :: rest)
    (hmove : ∀ q w, mover { s with sched := q, seen := w } = awaited s →
      ∃ w', step { s with sched := q, seen := w } = .next { t with sched := q.tail, seen := w' }) :
    reachedWithin 1 s t := by
  obtain ⟨n, q, w, hn, hrun, hm⟩ := run_until_awaited hwait
  obtain ⟨w', hstep⟩ := hmove q w hm
  exact ⟨n + 1, q.tail, w', by rw [List.length_tail]; omega, (run_add hrun).trans (run_succ_of_step (M := core) hstep)⟩

section DoCommand

variable {s : State} {i : Instr} {rest : List HostStmt}

/-- The CMD write of an acceptable command. -/
theorem reachedWithin_cmd (hb : s.busy = false) (hsticky : s.err = 0 ∨ passesStickyHold i = true)
    (hc : commandError i s = none) (hp : s.prog = cmd i :: rest) :
    reachedWithin 1 s { acceptCmd (encode i) s with prog := rest } := by
  refine reachedWithin_of_awaited (by simp [hb]) fun q w hm => ⟨w, ?_⟩
  have hhost : mover { s with sched := q, seen := w } = .host := by simpa [awaited, hb] using hm
  exact step_cmd hhost hb hsticky ((commandError_congr i rfl rfl rfl).trans hc) hp

/-- The core step of the pending command, while the host polls. -/
theorem reachedWithin_completeCmd (hb : s.busy = true) (hd : decode s.pend = .ok i) (q : List Agent)
    (w : List Reading) : reachedWithin 1 { s with prog := .wait :: rest, sched := q, seen := w }
      { completeCmd i (execState i s) with prog := .wait :: rest } := by
  refine reachedWithin_of_awaited (fun _ => ⟨rest, rfl⟩) fun q w hm => ⟨w, ?_⟩
  have hcore : mover { s with prog := .wait :: rest, sched := q, seen := w } = .core := by
    simpa [awaited, hb] using hm
  refine (step_of_corePerforms ⟨hcore, hb, hd⟩).trans ?_
  exact congrArg _ (congrArg (completeCmd i) (execState_of_host_side i s (.wait :: rest) q.tail w))

/-- The poll that ends WAIT. -/
theorem reachedWithin_wait (hb : s.busy = false) (q : List Agent) (w : List Reading) :
    reachedWithin 1 { s with prog := .wait :: rest, sched := q, seen := w } { s with prog := rest } := by
  refine reachedWithin_of_awaited (by simp [hb]) fun q w hm => ?_
  have hhost : mover { s with prog := .wait :: rest, sched := q, seen := w } = .host := by
    simpa [awaited, hb] using hm
  exact ⟨_, (step_wait hhost rfl).trans (by rw [if_neg (by simp [hb])])⟩

end DoCommand

/-- Settles O58: the CMD write, the core step and the last poll of WAIT, each made when its agent's turn comes. -/
theorem doCommandCompletes : Obligations.DoCommandCompletes := by
  intro s i rest hb herr hc hp
  rw [← passesStickyHold_iff] at herr
  have hreach : reachedWithin 3 s
      { completeCmd i (execState i (acceptCmd (encode i) s)) with prog := rest } :=
    ((reachedWithin_cmd hb herr hc hp).trans
      (reachedWithin_completeCmd (s := acceptCmd (encode i) s) rfl (decode_encode i))).trans
      (reachedWithin_wait (s := completeCmd i (execState i (acceptCmd (encode i) s))) rfl)
  obtain ⟨n, q, w, hn, hrun⟩ := hreach
  exact ⟨n, _, _, by omega, hrun, exec_eq_next i _, rfl⟩

end Sys2Proof.Machine

namespace Sys2Proof.Machine

/-! ## Command words and their instructions (30_encoding.md R81 to R86, R91) -/

/-- The opcodes of the commands without an operand: 0x00 to 0x0A but for STREAM_START's and CSUM_ABSORB's. -/
theorem plainCommand_ok_iff {op : Byte} :
    (∃ i, plainCommand op = .ok i) ↔ op.toNat ≤ 0x0A ∧ op ≠ 0x04#8 ∧ op ≠ 0x08#8 := by
  constructor
  · rintro ⟨i, h⟩
    unfold plainCommand at h
    split_ifs at h <;> subst op <;> decide
  · rintro ⟨hle, h4, h8⟩
    unfold plainCommand
    split_ifs
    case neg => bv_omega
    all_goals exact ⟨_, rfl⟩

/-- When a word decodes, and to what: STREAM_START and CSUM_ABSORB have one operand field each, the others none, and every other
field above the opcode is 0 (R86). -/
theorem decode_eq_ok_iff {v : Word} {i : Instr} :
    decode v = .ok i ↔ v.extractLsb' 24 8 = 0#8 ∧ v.extractLsb' 9 7 = 0#7 ∧
      ((v.extractLsb' 0 8 = 0x04#8 ∧ v.extractLsb' 16 8 = 0#8 ∧ .streamStart (directionOf v) = i) ∨
       (v.extractLsb' 0 8 = 0x08#8 ∧ v.getLsbD 8 = false ∧ .csumAbsorb (v.extractLsb' 16 8) = i) ∨
       (v.extractLsb' 16 8 = 0#8 ∧ v.getLsbD 8 = false ∧ plainCommand (v.extractLsb' 0 8) = .ok i)) := by
  have h4 : plainCommand 0x04#8 ≠ .ok i := fun h => (plainCommand_ok_iff.1 ⟨i, h⟩).2.1 rfl
  have h8 : plainCommand 0x08#8 ≠ .ok i := fun h => (plainCommand_ok_iff.1 ⟨i, h⟩).2.2 rfl
  unfold decode
  by_cases hhigh : v.extractLsb' 24 8 = 0#8
  case neg => simp [hhigh]
  by_cases hlow : v.extractLsb' 9 7 = 0#7
  case neg => simp [hlow]
  simp only [hhigh, hlow, ne_eq, not_true_eq_false, or_self, if_false, true_and]
  by_cases hop4 : v.extractLsb' 0 8 = 0x04#8
  · by_cases himm : v.extractLsb' 16 8 = 0#8 <;> simp [hop4, h4, himm]
  by_cases hop8 : v.extractLsb' 0 8 = 0x08#8
  · cases hbit : v.getLsbD 8 <;> simp [hop8, h8]
  · by_cases himm : v.extractLsb' 16 8 = 0#8 <;> cases hbit : v.getLsbD 8 <;> simp [hop4, hop8, himm]

/-- The fields of the word of a command without an operand. -/
theorem encode_plainCommand_fields {op : Byte} {i : Instr} (h : plainCommand op = .ok i) :
    (encode i).extractLsb' 0 8 = op ∧ (encode i).getLsbD 8 = false ∧ (encode i).extractLsb' 9 7 = 0#7 ∧
    (encode i).extractLsb' 16 8 = 0#8 ∧ (encode i).extractLsb' 24 8 = 0#8 := by
  unfold plainCommand at h
  split_ifs at h <;> cases h <;> subst op <;> decide

/-- A word with STREAM_START's fields is the word of STREAM_START with the D of bit 8 (R83). -/
theorem encode_streamStart_directionOf {v : Word} (hop : v.extractLsb' 0 8 = 0x04#8) (hlow : v.extractLsb' 9 7 = 0#7)
    (himm : v.extractLsb' 16 8 = 0#8) (hhigh : v.extractLsb' 24 8 = 0#8) :
    encode (.streamStart (directionOf v)) = v := by
  unfold directionOf
  cases hbit : v.getLsbD 8 <;> exact word_fields _ _ hop.symm hbit.symm hlow.symm himm.symm hhigh.symm

/-- A word with CSUM_ABSORB's fields is the word of CSUM_ABSORB with the IMM8 of bits [23:16] (R84). -/
theorem encode_csumAbsorb_imm8 {v : Word} (hop : v.extractLsb' 0 8 = 0x08#8) (hbit : v.getLsbD 8 = false)
    (hlow : v.extractLsb' 9 7 = 0#7) (hhigh : v.extractLsb' 24 8 = 0#8) :
    encode (.csumAbsorb (v.extractLsb' 16 8)) = v := by
  obtain ⟨kop, kbit, klow, kimm, khigh⟩ := encode_csumAbsorb_fields (v.extractLsb' 16 8)
  exact word_fields _ _ (kop.trans hop.symm) (kbit.trans hbit.symm) (klow.trans hlow.symm) kimm (khigh.trans hhigh.symm)

/-- A word that decodes is the word of its instruction: the two agree in the five fields. -/
theorem encode_of_decode {v : Word} {i : Instr} (h : decode v = .ok i) : encode i = v := by
  obtain ⟨hhigh, hlow, ⟨hop, himm, rfl⟩ | ⟨hop, hbit, rfl⟩ | ⟨himm, hbit, hplain⟩⟩ := decode_eq_ok_iff.1 h
  · exact encode_streamStart_directionOf hop hlow himm hhigh
  · exact encode_csumAbsorb_imm8 hop hbit hlow hhigh
  · obtain ⟨kop, kbit, klow, kimm, khigh⟩ := encode_plainCommand_fields hplain
    exact word_fields _ _ kop (kbit.trans hbit.symm) (klow.trans hlow.symm) (kimm.trans himm.symm) (khigh.trans hhigh.symm)

/-- Settles O2: `decode_encode`, and `encode_of_decode` by the cases in which a word decodes. -/
theorem decodeEncodeAgree : Obligations.DecodeEncodeAgree := ⟨decode_encode, fun _ _ => encode_of_decode⟩

/-- Settles O4: the conditions of `decode_eq_ok_iff`, by the opcodes that have an operand. -/
theorem legalityConditions : Obligations.LegalityConditions := by
  intro v
  simp only [decode_eq_ok_iff, exists_and_left, exists_or, exists_eq', plainCommand_ok_iff]
  generalize v.extractLsb' 0 8 = op
  constructor
  · rintro ⟨hhigh, hlow, ⟨rfl, himm, -⟩ | ⟨rfl, hbit, -⟩ | ⟨himm, hbit, hle, -, -⟩⟩ <;> simp_all
  · rintro ⟨hlow, hhigh, hle, hbit, himm⟩
    refine ⟨hhigh, hlow, ?_⟩
    by_cases h4 : op = 0x04#8
    · simp_all
    by_cases h8 : op = 0x08#8 <;> simp_all

/-! ## The rows of the opcode map (30_encoding.md R85) -/

/-- The row of the opcode map for an instruction. -/
def instrRow : Instr → OpcodeRow
  | .streamStart _ => ⟨"STREAM_START", 0x00000004#32, 0xFFFFFEFF#32⟩
  | .csumAbsorb _ => ⟨"CSUM_ABSORB", 0x00000008#32, 0xFF00FFFF#32⟩
  | i => ⟨i.mnemonic, encode i, 0xFFFFFFFF#32⟩

theorem instrRow_mnemonic (i : Instr) : (instrRow i).mnemonic = i.mnemonic := by cases i <;> rfl

theorem instrRow_mem (i : Instr) : instrRow i ∈ opcodeMap := by
  cases i <;> simp [instrRow, opcodeMap, Instr.mnemonic, encode]

theorem exists_instrRow {r : OpcodeRow} (hr : r ∈ opcodeMap) : ∃ i, instrRow i = r := by
  simp only [opcodeMap, List.mem_cons, List.not_mem_nil, or_false] at hr
  rcases hr with rfl | rfl | rfl | rfl | rfl | rfl | rfl | rfl | rfl | rfl | rfl
  exacts [⟨.nop, rfl⟩, ⟨.keyExpand, rfl⟩, ⟨.blockEnc, rfl⟩, ⟨.blockDec, rfl⟩, ⟨.streamStart .encrypt, rfl⟩,
    ⟨.streamBlock, rfl⟩, ⟨.streamAbort, rfl⟩, ⟨.csumReset, rfl⟩, ⟨.csumAbsorb 0, rfl⟩, ⟨.zeroize, rfl⟩, ⟨.errClear, rfl⟩]

theorem instrRow_matchesWord_encode (i : Instr) : (instrRow i).matchesWord (encode i) = true := by
  cases i with
  | streamStart d => cases d <;> decide
  | csumAbsorb b => revert b; decide
  | nop | keyExpand | blockEnc | blockDec | streamBlock | streamAbort | csumReset | zeroize | errClear => decide

/-- A field that the mask keeps whole is the pattern's. -/
theorem extractLsb'_of_and_eq {v mask pattern : Word} {start len : Nat} {field : BitVec len} (h : v &&& mask = pattern)
    (hmask : mask.extractLsb' start len = BitVec.allOnes len) (hpattern : pattern.extractLsb' start len = field) :
    v.extractLsb' start len = field := by
  rw [← hpattern, ← h, BitVec.extractLsb'_and, hmask, BitVec.and_allOnes]

/-- Every word that matches a row is the word of an instruction of that row, its operand read from the bits that the mask drops. -/
theorem exists_encode_of_matchesWord {i : Instr} {v : Word} (h : (instrRow i).matchesWord v = true) :
    ∃ j, instrRow j = instrRow i ∧ encode j = v := by
  rw [OpcodeRow.matchesWord, beq_iff_eq] at h
  cases i with
  | streamStart d =>
    change v &&& 0xFFFFFEFF#32 = 0x00000004#32 at h
    exact ⟨.streamStart (directionOf v), rfl, encode_streamStart_directionOf
      (extractLsb'_of_and_eq h rfl rfl) (extractLsb'_of_and_eq h rfl rfl) (extractLsb'_of_and_eq h rfl rfl)
      (extractLsb'_of_and_eq h rfl rfl)⟩
  | csumAbsorb b =>
    change v &&& 0xFF00FFFF#32 = 0x00000008#32 at h
    have hbit : v.getLsbD 8 = false := by simpa using congrArg (·.getLsbD 8) h
    exact ⟨.csumAbsorb (v.extractLsb' 16 8), rfl, encode_csumAbsorb_imm8 (extractLsb'_of_and_eq h rfl rfl) hbit
      (extractLsb'_of_and_eq h rfl rfl) (extractLsb'_of_and_eq h rfl rfl)⟩
  | nop | keyExpand | blockEnc | blockDec | streamBlock | streamAbort | csumReset | zeroize | errClear =>
    exact ⟨_, rfl, h.symm.trans BitVec.and_allOnes⟩

theorem matchesWord_of_decode {v : Word} {i : Instr} (h : decode v = .ok i) : (instrRow i).matchesWord v = true :=
  encode_of_decode h ▸ instrRow_matchesWord_encode i

theorem exists_decode_of_matchesWord {r : OpcodeRow} {v : Word} (hr : r ∈ opcodeMap) (h : r.matchesWord v = true) :
    ∃ i, decode v = .ok i ∧ instrRow i = r := by
  obtain ⟨i, rfl⟩ := exists_instrRow hr
  obtain ⟨j, hj, rfl⟩ := exists_encode_of_matchesWord h
  exact ⟨j, decode_encode j, hj⟩

/-- Settles O3: a word matches the row of the instruction it decodes to, and of every row it matches it decodes to an instruction;
so two rows that it matches are the row of one instruction. -/
theorem decodesExactlyOneRow : Obligations.DecodesExactlyOneRow := by
  refine ⟨fun v => ⟨?_, ?_⟩, ?_, ?_, ?_, ?_⟩
  · rintro ⟨i, h⟩
    exact ⟨instrRow i, instrRow_mem i, matchesWord_of_decode h⟩
  · rintro ⟨r, hr, h⟩
    obtain ⟨i, hi, -⟩ := exists_decode_of_matchesWord hr h
    exact ⟨i, hi⟩
  · intro v i h
    exact ⟨instrRow i, instrRow_mem i, instrRow_mnemonic i, matchesWord_of_decode h⟩
  · intro v r₁ hr₁ r₂ hr₂ h₁ h₂
    obtain ⟨i, hi, rfl⟩ := exists_decode_of_matchesWord hr₁ h₁
    obtain ⟨j, hj, rfl⟩ := exists_decode_of_matchesWord hr₂ h₂
    rw [Except.ok.inj (hi.symm.trans hj)]
  · intro v d h
    rw [← encode_of_decode h]
    cases d <;> decide
  · intro v b h
    obtain ⟨-, -, -, himm, -⟩ := encode_csumAbsorb_fields b
    rw [← encode_of_decode h, himm]

/-- Settles O1: each word evaluated, an Illegal one answering `.error`. -/
theorem workedEncodingsDecode : Obligations.WorkedEncodingsDecode := by
  refine ⟨by decide, by decide, by decide, ?_, ?_, ?_⟩ <;> exact fun i h => absurd h nofun

end Sys2Proof.Machine

namespace Sys2Proof.Machine

/-! ## The substitution table (40_key_schedule.md R101) -/

theorem sbox_eq_sboxFormula : ∀ x : Byte, sbox x = sboxFormula x := by decide +kernel

theorem gmul_ginv_of_ne_zero : ∀ x : Byte, x ≠ 0 → gmul x (ginv x) = 1#8 := by decide +kernel

theorem ginv_zero : ginv 0#8 = 0#8 := by decide

/-- Settles O8: the 256 entries against the formula, and the field inverse `x^254` against the product, byte by byte. -/
theorem substitutionTableIsFormula : Obligations.SubstitutionTableIsFormula :=
  ⟨sbox_eq_sboxFormula, gmul_ginv_of_ne_zero, ginv_zero⟩

/-! ## The bytes of a schedule word (40_key_schedule.md R102 to R105) -/

@[simp] theorem xorBytes_getElem {n : Nat} (a b : Bytes n) {k : Nat} (hk : k < n) :
    (xorBytes a b)[k] = a[k] ^^^ b[k] := by
  simp [xorBytes]

@[simp] theorem subWord_getElem (w : SWord) {k : Nat} (hk : k < 4) : (subWord w)[k] = sbox w[k] := by
  simp [subWord]

theorem rotWord_getElem (w : SWord) {k : Nat} (hk : k < 4) :
    (rotWord w)[k] = w[(k + 1) % 4]'(Nat.mod_lt _ (by decide)) := by
  interval_cases k <;> rfl

/-- Up to `Rcon[8]` the power of x has degree below 8, so `xtime` is a plain shift (R103). -/
theorem rconByte_eq_shiftLeft {j : Nat} (h1 : 1 ≤ j) (h8 : j ≤ 8) : rconByte j = 1#8 <<< (j - 1) := by
  interval_cases j <;> decide

theorem rcon_getElem (j : Nat) {k : Nat} (hk : k < 4) : (rcon j)[k] = if k = 0 then rconByte j else 0#8 := by
  interval_cases k <;> rfl

@[simp] theorem keyWord_getElem (key : Key) (i : Fin 8) {k : Nat} (hk : k < 4) :
    (keyWord key i)[k] = key[4 * i.val + k] := by
  simp [keyWord]

/-- `temp` of R105 byte by byte, in the range where Rcon is a plain power. -/
theorem scheduleTemp_getElem (w : SWord) {i : Nat} (h8 : 8 ≤ i) (h60 : i < 60) {k : Nat} (hk : k < 4) :
    (scheduleTemp i w)[k] =
      if i % 8 = 0 then
        sbox (w[(k + 1) % 4]'(Nat.mod_lt _ (by decide))) ^^^ (if k = 0 then 1#8 <<< (i / 8 - 1) else 0#8)
      else if i % 8 = 4 then sbox w[k]
      else w[k] := by
  have hrcon : rconByte (i / 8) = 1#8 <<< (i / 8 - 1) := rconByte_eq_shiftLeft (by omega) (by omega)
  unfold scheduleTemp
  by_cases h0 : i % 8 = 0
  · simp only [if_pos h0, xorBytes_getElem, subWord_getElem, rotWord_getElem, rcon_getElem, hrcon]
  by_cases h4 : i % 8 = 4
  · simp only [if_neg h0, if_pos h4, subWord_getElem]
  · simp only [if_neg h0, if_neg h4]

/-! ## The words pushed one after another (40_key_schedule.md R105, R107) -/

/-- `m + n` words are `m` words and then `n` more. -/
theorem extendSchedule_add (m n i : Nat) (ws : List SWord) :
    extendSchedule (m + n) i ws = extendSchedule n (i + m) (extendSchedule m i ws) := by
  induction m generalizing i ws with
  | zero => rw [Nat.zero_add]; rfl
  | succ m ih =>
    rw [Nat.succ_add, extendSchedule, extendSchedule, ih, Nat.add_assoc, Nat.add_comm 1 m]

/-- The words already there stay, as the older end of the list. -/
theorem suffix_extendSchedule (n i : Nat) (ws : List SWord) : ws <:+ extendSchedule n i ws := by
  induction n generalizing i ws with
  | zero => exact List.suffix_rfl
  | succ n ih => exact (List.suffix_cons _ _).trans (ih _ _)

@[simp] theorem length_extendSchedule (n i : Nat) (ws : List SWord) :
    (extendSchedule n i ws).length = n + ws.length := by
  induction n generalizing i ws with
  | zero => simp [extendSchedule]
  | succ n ih => rw [extendSchedule, ih, List.length_cons]; omega

/-- The first `8 + n` words of the schedule, newest first. -/
def newestWords (key : Key) (n : Nat) : List SWord := extendSchedule n 8 (List.ofFn (keyWord key)).reverse

theorem scheduleWords_eq (key : Key) : scheduleWords key = (newestWords key 52).reverse := rfl

@[simp] theorem length_newestWords (key : Key) (n : Nat) : (newestWords key n).length = n + 8 := by
  simp [newestWords]

theorem newestWords_succ (key : Key) (n : Nat) :
    newestWords key (n + 1) =
      xorBytes ((newestWords key n).getD 7 (zeroBytes 4))
        (scheduleTemp (n + 8) ((newestWords key n).getD 0 (zeroBytes 4))) :: newestWords key n := by
  rw [newestWords, extendSchedule_add n 1, Nat.add_comm 8 n]
  rfl

theorem newestWords_suffix (key : Key) {m n : Nat} (h : m ≤ n) : newestWords key m <:+ newestWords key n := by
  obtain ⟨d, rfl⟩ := Nat.exists_eq_add_of_le h
  rw [newestWords, newestWords, extendSchedule_add]
  exact suffix_extendSchedule _ _ _

theorem length_scheduleWords (key : Key) : (scheduleWords key).length = 60 := by
  simp [scheduleWords_eq]

/-- `w[i]` in every stage of the schedule that holds it, at `p` from the newest word `w[n + 7]`. -/
theorem scheduleWord_eq_getD_newestWords (key : Key) {n i p : Nat} (hn : n ≤ 52) (hp : i + p = n + 7) :
    scheduleWord key i = (newestWords key n).getD p (zeroBytes 4) := by
  obtain ⟨later, hsplit⟩ := newestWords_suffix key hn
  have hi : i < (newestWords key n).length := by rw [length_newestWords]; omega
  rw [scheduleWord, scheduleWords_eq, ← hsplit, List.reverse_append,
    List.getD_append _ _ _ _ (by rwa [List.length_reverse]), List.getD_reverse _ hi, length_newestWords]
  congr 1
  omega

/-- R102: stage 0 of the schedule is the key words alone. -/
theorem scheduleWord_eq_keyWord (key : Key) (i : Fin 8) : scheduleWord key i.val = keyWord key i := by
  rw [scheduleWord_eq_getD_newestWords key (n := 0) (p := 7 - i.val) (by decide) (by omega)]
  fin_cases i <;> rfl

/-- R105 on whole words: at stage `n` the newest word is `w[n + 7]` and the eighth newest `w[n]`. -/
theorem scheduleWord_add_eight (key : Key) {n : Nat} (hn : n < 52) :
    scheduleWord key (n + 8) =
      xorBytes (scheduleWord key n) (scheduleTemp (n + 8) (scheduleWord key (n + 7))) := by
  rw [scheduleWord_eq_getD_newestWords key (i := n + 8) (p := 0) hn rfl,
    scheduleWord_eq_getD_newestWords key (i := n + 7) (p := 0) hn.le rfl,
    scheduleWord_eq_getD_newestWords key (i := n) (p := 7) hn.le rfl, newestWords_succ, List.getD_cons_zero]

theorem scheduleWord_getElem_of_lt (key : Key) {i k : Nat} (hi : i < 8) (hk : k < 4) :
    (scheduleWord key i)[k] = key[4 * i + k] := by
  simp [scheduleWord_eq_keyWord key ⟨i, hi⟩]

/-- Settles O10: the recurrence on whole words, then `temp` byte by byte. -/
theorem keyScheduleRecurrence : Obligations.KeyScheduleRecurrence := by
  refine fun key => ⟨length_scheduleWords key, fun i k => scheduleWord_getElem_of_lt key i.isLt k.isLt,
    fun i h8 h60 k => ?_⟩
  obtain ⟨n, rfl⟩ := Nat.exists_eq_add_of_le' h8
  simp only [Fin.getElem_fin]
  rw [scheduleWord_add_eight key (by omega), xorBytes_getElem, scheduleTemp_getElem _ h8 h60]
  rfl

/-! ## Round keys (40_key_schedule.md R106) -/

theorem keyExpansion_getElem (key : Key) {r j : Nat} (hr : r < 15) (hj : j < 16) :
    (keyExpansion key)[r][j] = (scheduleWord key (4 * r + j / 4))[j % 4]'(Nat.mod_lt _ (by decide)) := by
  simp [keyExpansion, roundKey]

/-- The first two round keys are the two halves of the key. -/
theorem keyExpansion_getElem_of_lt_two (key : Key) {r j : Nat} (hr : r < 2) (hj : j < 16) :
    (keyExpansion key)[r][j] = key[16 * r + j] := by
  rw [keyExpansion_getElem, scheduleWord_getElem_of_lt key (by omega)]
  congr 1
  omega

/-- Settles O11: byte `4c + k` lies in word `c` of the round key, at `k`. -/
theorem roundKeysFromWords : Obligations.RoundKeysFromWords := by
  refine fun key => ⟨fun r k c => ?_, fun i => ⟨?_, ?_⟩⟩
  · have hdiv : (4 * c.val + k.val) / 4 = c.val := by omega
    have hmod : (4 * c.val + k.val) % 4 = k.val := by omega
    refine (keyExpansion_getElem key r.isLt (by omega)).trans ?_
    simp only [hdiv, hmod]
    rfl
  · simpa using keyExpansion_getElem_of_lt_two key (r := 0) (by decide) i.isLt
  · exact keyExpansion_getElem_of_lt_two key (r := 1) (by decide) i.isLt

/-! ## KEY_EXPAND (40_key_schedule.md R110, R111) -/

/-- With KV already 1 and KEY already clear, only RK is written (70_reset_and_hazards.md R286). -/
theorem exec_keyExpand_of_cleared {s : State} (hkv : s.kv = true) (hkey : s.key = zeroBytes 32) :
    exec .keyExpand s = .next { s with rk := keyExpansion (zeroBytes 32) } := by
  rw [exec_keyExpand, hkey, ← hkv, ← hkey]

/-- Settles O16: the first run leaves KV = 1 and KEY clear, which `exec_keyExpand_of_cleared` starts from. -/
theorem keyExpandEffect : Obligations.KeyExpandEffect := by
  refine fun s => ⟨exec_keyExpand s, fun t ht => ?_⟩
  obtain rfl := Host.Outcome.next.inj ht
  exact exec_keyExpand_of_cleared rfl rfl

end Sys2Proof.Machine

namespace Sys2Proof.Machine

/-! ## Substitution and row shifting (41_block_transform.md R131 to R133) -/

@[simp] theorem invSbox_sbox : ∀ x : Byte, invSbox (sbox x) = x := by decide +kernel

@[simp] theorem sbox_invSbox : ∀ x : Byte, sbox (invSbox x) = x := by decide +kernel

/-- Settles O9: the two tables against each other, byte by byte. -/
theorem inverseSubstitution : Obligations.InverseSubstitution := ⟨invSbox_sbox, sbox_invSbox⟩

@[simp] theorem invSubBytes_subBytes (s : Block) : invSubBytes (subBytes s) = s :=
  Vector.ext fun i hi => by simp [invSubBytes, subBytes]

@[simp] theorem subBytes_invSubBytes (s : Block) : subBytes (invSubBytes s) = s :=
  Vector.ext fun i hi => by simp [invSubBytes, subBytes]

theorem shiftRows_getElem (s : Block) {i : Nat} (hi : i < 16) :
    (shiftRows s)[i] = s[i % 4 + 4 * ((i / 4 + i % 4) % 4)] := by
  simp [shiftRows]

theorem invShiftRows_getElem (s : Block) {i : Nat} (hi : i < 16) :
    (invShiftRows s)[i] = s[i % 4 + 4 * ((i / 4 + 4 - i % 4) % 4)] := by
  simp [invShiftRows]

/-- Row `i % 4` is turned left and then right, by `i % 4` columns. -/
@[simp] theorem invShiftRows_shiftRows (s : Block) : invShiftRows (shiftRows s) = s :=
  Vector.ext fun i hi => by
    rw [invShiftRows_getElem _ hi, shiftRows_getElem]
    congr 1
    omega

@[simp] theorem shiftRows_invShiftRows (s : Block) : shiftRows (invShiftRows s) = s :=
  Vector.ext fun i hi => by
    rw [shiftRows_getElem _ hi, invShiftRows_getElem]
    congr 1
    omega

/-- Settles O12: byte `r + 4c` by its row and column; the two permutations index by index. -/
theorem rowShiftingPermutations : Obligations.RowShiftingPermutations := by
  refine ⟨fun s r c => ⟨?_, ?_⟩, fun s => ⟨rfl, rfl⟩⟩
  · rw [shiftRows_getElem]
    congr 1
    omega
  · rw [invShiftRows_getElem]
    congr 1
    omega

/-! ## Column mixing (41_block_transform.md R134, R135) -/

theorem gmul_two (a : Byte) : gmul 0x02#8 a = xtime a := by
  simp [gmul, gmulBits]

theorem gmul_three (a : Byte) : gmul 0x03#8 a = xtime a ^^^ a := by
  simp [gmul, gmulBits, BitVec.xor_comm]

/-- The row `m0 m1 m2 m3` of a circulant matrix, applied to a column. -/
def rowProduct (m0 m1 m2 m3 a0 a1 a2 a3 : Byte) : Byte :=
  gmul m0 a0 ^^^ gmul m1 a1 ^^^ gmul m2 a2 ^^^ gmul m3 a3

/-- Both column mixings, row by row in each column. -/
theorem ofFn_mixByte_getElem (m0 m1 m2 m3 : Byte) (s : Block) {c r : Nat} (hc : c < 4) (hr : r < 4) :
    (Vector.ofFn (mixByte m0 m1 m2 m3 s))[4 * c + r] =
      rowProduct m0 m1 m2 m3 s[4 * c + r] s[4 * c + (r + 1) % 4] s[4 * c + (r + 2) % 4] s[4 * c + (r + 3) % 4] := by
  have hdiv : (4 * c + r) / 4 = c := by omega
  have hmod : (4 * c + r) % 4 = r := by omega
  simp [mixByte, rowProduct, hdiv, hmod]

/-- The four rows of a column, each turned right by one from the row before it. -/
theorem ofFn_mixByte_rows (m0 m1 m2 m3 : Byte) (s : Block) (c : Fin 4) :
    (Vector.ofFn (mixByte m0 m1 m2 m3 s))[4 * c.val] =
      rowProduct m0 m1 m2 m3 s[4 * c.val] s[4 * c.val + 1] s[4 * c.val + 2] s[4 * c.val + 3] ∧
    (Vector.ofFn (mixByte m0 m1 m2 m3 s))[4 * c.val + 1] =
      rowProduct m3 m0 m1 m2 s[4 * c.val] s[4 * c.val + 1] s[4 * c.val + 2] s[4 * c.val + 3] ∧
    (Vector.ofFn (mixByte m0 m1 m2 m3 s))[4 * c.val + 2] =
      rowProduct m2 m3 m0 m1 s[4 * c.val] s[4 * c.val + 1] s[4 * c.val + 2] s[4 * c.val + 3] ∧
    (Vector.ofFn (mixByte m0 m1 m2 m3 s))[4 * c.val + 3] =
      rowProduct m1 m2 m3 m0 s[4 * c.val] s[4 * c.val + 1] s[4 * c.val + 2] s[4 * c.val + 3] := by
  have row (r : Nat) (hr : r < 4) := ofFn_mixByte_getElem m0 m1 m2 m3 s c.isLt hr
  refine ⟨row 0 (by decide), (row 1 (by decide)).trans ?_, (row 2 (by decide)).trans ?_, (row 3 (by decide)).trans ?_⟩ <;>
    simp only [rowProduct, Nat.reduceAdd, Nat.reduceMod, Nat.add_zero] <;> ac_rfl

/-- Settles O13: the four rows of `mixColumns`, with the products by 1, 2 and 3 as sums of `a` and `xtime a`. -/
theorem columnMixingEquations : Obligations.ColumnMixingEquations := by
  refine ⟨fun a => ⟨gmul_two a, gmul_three a⟩, fun s c => ?_⟩
  have hrows := ofFn_mixByte_rows 0x02#8 0x03#8 0x01#8 0x01#8 s c
  simp only [rowProduct, gmul_one, gmul_two, gmul_three] at hrows
  exact hrows

/-- The four coefficients of a product of two column polynomials modulo `x^4 + 1`, each applied to a byte, are those of 1. -/
def ColumnInverse (m0 m1 m2 m3 n0 n1 n2 n3 : Byte) : Prop :=
  ∀ a : Byte, rowProduct m0 m1 m2 m3 (gmul n0 a) (gmul n3 a) (gmul n2 a) (gmul n1 a) = a ∧
    rowProduct m0 m1 m2 m3 (gmul n1 a) (gmul n0 a) (gmul n3 a) (gmul n2 a) = 0 ∧
    rowProduct m0 m1 m2 m3 (gmul n2 a) (gmul n1 a) (gmul n0 a) (gmul n3 a) = 0 ∧
    rowProduct m0 m1 m2 m3 (gmul n3 a) (gmul n2 a) (gmul n1 a) (gmul n0 a) = 0

theorem columnInverse_inv_mix :
    ColumnInverse 0x0e#8 0x0b#8 0x0d#8 0x09#8 0x02#8 0x03#8 0x01#8 0x01#8 := by
  unfold ColumnInverse; decide +kernel

theorem columnInverse_mix_inv :
    ColumnInverse 0x02#8 0x03#8 0x01#8 0x01#8 0x0e#8 0x0b#8 0x0d#8 0x09#8 := by
  unfold ColumnInverse; decide +kernel

/-- The rotations of one row are the rows of its matrix, so one byte of the column speaks for all four. -/
theorem ColumnInverse.rowProduct_rowProduct {m0 m1 m2 m3 n0 n1 n2 n3 : Byte}
    (h : ColumnInverse m0 m1 m2 m3 n0 n1 n2 n3) (a0 a1 a2 a3 : Byte) :
    rowProduct m0 m1 m2 m3 (rowProduct n0 n1 n2 n3 a0 a1 a2 a3) (rowProduct n0 n1 n2 n3 a1 a2 a3 a0)
      (rowProduct n0 n1 n2 n3 a2 a3 a0 a1) (rowProduct n0 n1 n2 n3 a3 a0 a1 a2) = a0 := by
  calc
    _ = rowProduct m0 m1 m2 m3 (gmul n0 a0) (gmul n3 a0) (gmul n2 a0) (gmul n1 a0) ^^^
        rowProduct m0 m1 m2 m3 (gmul n1 a1) (gmul n0 a1) (gmul n3 a1) (gmul n2 a1) ^^^
        rowProduct m0 m1 m2 m3 (gmul n2 a2) (gmul n1 a2) (gmul n0 a2) (gmul n3 a2) ^^^
        rowProduct m0 m1 m2 m3 (gmul n3 a3) (gmul n2 a3) (gmul n1 a3) (gmul n0 a3) := by
      simp only [rowProduct, gmul_xor]
      ac_rfl
    _ = a0 := by
      obtain ⟨h0, -, -, -⟩ := h a0
      obtain ⟨-, h1, -, -⟩ := h a1
      obtain ⟨-, -, h2, -⟩ := h a2
      obtain ⟨-, -, -, h3⟩ := h a3
      simp [h0, h1, h2, h3]

theorem block_ext_column {s t : Block}
    (h : ∀ (c r : Nat) (hc : c < 4) (hr : r < 4), s[4 * c + r] = t[4 * c + r]) : s = t :=
  Vector.ext fun i hi => by
    simpa only [Nat.div_add_mod] using h (i / 4) (i % 4) (by omega) (by omega)

theorem ColumnInverse.ofFn_mixByte_ofFn_mixByte {m0 m1 m2 m3 n0 n1 n2 n3 : Byte}
    (h : ColumnInverse m0 m1 m2 m3 n0 n1 n2 n3) (s : Block) :
    Vector.ofFn (mixByte m0 m1 m2 m3 (Vector.ofFn (mixByte n0 n1 n2 n3 s))) = s := by
  refine block_ext_column fun c r hc hr => ?_
  have hmod (k : Nat) : k % 4 < 4 := Nat.mod_lt _ (by decide)
  simp only [ofFn_mixByte_getElem, hc, hr, hmod]
  interval_cases r <;> exact h.rowProduct_rowProduct _ _ _ _

@[simp] theorem invMixColumns_mixColumns (s : Block) : invMixColumns (mixColumns s) = s :=
  columnInverse_inv_mix.ofFn_mixByte_ofFn_mixByte s

@[simp] theorem mixColumns_invMixColumns (s : Block) : mixColumns (invMixColumns s) = s :=
  columnInverse_mix_inv.ofFn_mixByte_ofFn_mixByte s

/-- Settles O14: the four rows of `invMixColumns`; the two column polynomials are inverse modulo `x^4 + 1`. -/
theorem inverseColumnMixing : Obligations.InverseColumnMixing :=
  ⟨ofFn_mixByte_rows 0x0e#8 0x0b#8 0x0d#8 0x09#8, fun s => ⟨invMixColumns_mixColumns s, mixColumns_invMixColumns s⟩⟩

/-! ## The ciphers (41_block_transform.md R136 to R139) -/

@[simp] theorem addRoundKey_addRoundKey (s k : Block) : addRoundKey (addRoundKey s k) k = s :=
  Vector.ext fun i hi => by simp [addRoundKey]

/-- Rounds undone in reverse order, when each `undo` gives back the `view` of the state before its round. -/
theorem foldl_reverse_foldl {σ ι : Type} {view : σ → σ} {round undo : σ → ι → σ}
    (h : ∀ s i, undo (view (round s i)) i = view s) (is : List ι) (s : σ) :
    is.reverse.foldl undo (view (is.foldl round s)) = view s := by
  induction is generalizing s with
  | nil => rfl
  | cons i is ih => simp only [List.reverse_cons, List.foldl_append, List.foldl_cons, List.foldl_nil, ih, h]

/-- The inverse cipher's rounds begin in the middle of the cipher's, after row shifting. -/
theorem invFullRound_fullRound (s k : Block) :
    invFullRound (shiftRows (subBytes (fullRound s k))) k = shiftRows (subBytes s) := by
  simp [invFullRound, fullRound]

theorem fullRound_invFullRound (s k : Block) :
    fullRound (invSubBytes (invShiftRows (invFullRound s k))) k = invSubBytes (invShiftRows s) := by
  simp [invFullRound, fullRound]

theorem invFullRounds_fullRounds (rk : RoundKeys) (rs : List (Fin 15)) (s : Block) :
    rs.reverse.foldl (fun s r => invFullRound s rk[r])
      (shiftRows (subBytes (rs.foldl (fun s r => fullRound s rk[r]) s))) = shiftRows (subBytes s) :=
  foldl_reverse_foldl (view := fun s => shiftRows (subBytes s)) (fun s r => invFullRound_fullRound s rk[r]) rs s

theorem fullRounds_invFullRounds (rk : RoundKeys) (rs : List (Fin 15)) (s : Block) :
    rs.foldl (fun s r => fullRound s rk[r])
      (invSubBytes (invShiftRows (rs.reverse.foldl (fun s r => invFullRound s rk[r]) s))) =
      invSubBytes (invShiftRows s) := by
  simpa only [List.reverse_reverse] using foldl_reverse_foldl (view := fun s => invSubBytes (invShiftRows s))
    (fun s r => fullRound_invFullRound s rk[r]) rs.reverse s

theorem invCipher_cipher (x : Block) (rk : RoundKeys) : invCipher (cipher x rk) rk = x := by
  simp only [invCipher, cipher, finalRound, addRoundKey_addRoundKey, invFullRounds_fullRounds, invShiftRows_shiftRows,
    invSubBytes_subBytes]

theorem cipher_invCipher (x : Block) (rk : RoundKeys) : cipher (invCipher x rk) rk = x := by
  simp only [invCipher, cipher, finalRound, addRoundKey_addRoundKey, fullRounds_invFullRounds, shiftRows_invShiftRows,
    subBytes_invSubBytes]

/-- Settles O15: the outer key additions cancel, and the rounds by `foldl_reverse_foldl`. -/
theorem ciphersAreInverse : Obligations.CiphersAreInverse :=
  fun rk x => ⟨invCipher_cipher x rk, cipher_invCipher x rk⟩

/-! ## BLOCK_ENC and BLOCK_DEC (41_block_transform.md R150, R152) -/

/-- Settles O17: the two commands' equations, and `invCipher_cipher` for the round trip. -/
theorem blockCommandsEffect : Obligations.BlockCommandsEffect := by
  refine fun s => ⟨exec_blockEnc s, exec_blockDec s, ?_⟩
  rw [exec_blockDec, invCipher_cipher]

end Sys2Proof.Machine

namespace Sys2Proof.Machine

/-! ## The stream commands (42_stream_driver.md R174 to R183) -/

/-- Settles O19: `streamBlock_effect` at the default parameters. -/
theorem streamBlockEffect : Obligations.StreamBlockEffect :=
  fun s h => ⟨_, exec_streamBlock s, streamBlock_effect params h⟩

/-- A unit's output is zero from its length on (R180). -/
theorem unitOutput_getElem_of_le {n : Nat} (din ks : Block) {j : Fin 16} (h : n ≤ j.val) :
    (unitOutput n din ks)[j] = 0x00#8 := by
  rw [unitOutput_getElem, if_neg (Nat.not_lt.mpr h)]

/-- Settles O20: whatever the unit length is, it is at most 16 and the output is zero beyond it. -/
theorem streamBlockAlwaysCompletes : Obligations.StreamBlockAlwaysCompletes := by
  refine fun s => ⟨_, exec_streamBlock s, ?_, fun j hj => ?_, streamBlock_frame params s⟩
  · rw [streamBlock_lastN, toNat_ofNat_unitLen]
    exact unitLen_le s.len s.off
  · rw [streamBlock_lastN, toNat_ofNat_unitLen] at hj
    rw [streamBlock_dout, unitOutput_getElem_of_le _ _ hj]

/-- Settles O18: STREAM_START's one record, at LEN = 0 and at LEN not 0. -/
theorem streamStartEffect : Obligations.StreamStartEffect := by
  intro d s
  rw [exec_streamStart, streamStart_eq]
  constructor
  · intro h
    rw [decide_eq_true h, decide_eq_false (not_not_intro h)]
    rfl
  · intro h
    rw [decide_eq_true h, decide_eq_false h]
    rfl

/-- Settles O21: the command's equation. -/
theorem streamAbortEffect : Obligations.StreamAbortEffect := exec_streamAbort

/-- Settles O57: with LEN = 0 STREAM_START's flags are those of a completed pass. -/
theorem emptyStreamCompletesAtStart : Obligations.EmptyStreamCompletesAtStart := by
  intro P d s h
  refine ⟨?_, ?_, ?_, streamStart_ctr P d s, streamStart_acc P d s, rfl⟩
  · rw [streamStart_active, if_pos h]
  · rw [streamStart_done, if_pos h]
  · rw [streamStart_off, streamStart_len, h]

/-! ## The counter as a number (42_stream_driver.md R172, R177) -/

theorem ctrValue_eq_sum (b : Block) : ctrValue b = ∑ j : Fin 16, b[j].toNat * 256 ^ (15 - j.val) := by
  rw [ctrValue, ← List.ofFn_eq_map, List.sum_ofFn]

theorem ctrValue_lt (b : Block) : ctrValue b < 2 ^ 128 := by
  rw [ctrValue_eq_bigEndian]
  exact bigEndian_lt 16 _ fun j => BitVec.isLt _

/-- A block is the 16 digits of its value. -/
theorem ctrBytes_ctrValue (b : Block) : ctrBytes (ctrValue b) = b := by
  apply Vector.ext
  intro j hj
  apply BitVec.eq_of_toNat_eq
  have hdigit := bigEndian_digit 16 (fun j => (b.toList.getD j 0).toNat) (fun _ => BitVec.isLt _) j hj
  rw [← ctrValue_eq_bigEndian] at hdigit
  simpa [ctrBytes, List.getD_eq_getElem?_getD, hj] using hdigit

theorem inc128_ctrBytes (v : Nat) : inc128 (ctrBytes (v % 2 ^ 128)) = ctrBytes ((v + 1) % 2 ^ 128) := by
  rw [inc128, ctrValue_ctrBytes, Nat.mod_mod, Nat.mod_add_mod]

/-- `u` increments add `u` modulo 2^128 (R172). -/
theorem inc128_iterate (b : Block) (u : Nat) : inc128^[u] b = ctrBytes ((ctrValue b + u) % 2 ^ 128) := by
  induction u with
  | zero => rw [Function.iterate_zero_apply, Nat.add_zero, Nat.mod_eq_of_lt (ctrValue_lt b), ctrBytes_ctrValue]
  | succ u ih => rw [Function.iterate_succ_apply', ih, inc128_ctrBytes, Nat.add_assoc]

/-- Settles O53: a block and its value determine each other, and `inc128_iterate`. -/
theorem counterIsBigEndian : Obligations.CounterIsBigEndian := by
  unfold Obligations.CounterIsBigEndian
  intro value
  have hvalue : value = ctrValue := funext fun b => (ctrValue_eq_sum b).symm
  rw [hvalue]
  refine ⟨ctrValue_inc128, Function.LeftInverse.injective ctrBytes_ctrValue, fun b u => ⟨?_, inc128_iterate b u⟩⟩
  rw [inc128_iterate, ctrValue_ctrBytes, Nat.mod_mod]

/-- The counter block of unit `u` is CTR_INIT incremented `u` times (R172). -/
theorem counterBlock_eq_iterate (P : Params) (rk : RoundKeys) (u : Nat) :
    counterBlock P rk u = inc128^[u] (P.ctrInit rk) := (inc128_iterate _ u).symm

theorem counterBlock_zero (P : Params) (rk : RoundKeys) : counterBlock P rk 0 = P.ctrInit rk :=
  counterBlock_eq_iterate P rk 0

theorem counterBlock_succ (P : Params) (rk : RoundKeys) (u : Nat) :
    counterBlock P rk (u + 1) = inc128 (counterBlock P rk u) := by
  rw [counterBlock_eq_iterate, counterBlock_eq_iterate, Function.iterate_succ_apply']

end Sys2Proof.Machine

namespace Sys2Proof.Machine

section StreamFunction

variable (P : Params) (rk : RoundKeys)

/-! ## The stream function (42_stream_driver.md R170, R173) -/

@[simp] theorem length_streamBytes (input : List Byte) : (streamBytes P rk input).length = input.length :=
  List.length_ofFn

theorem streamBytes_getElem {input : List Byte} {i : Nat} (hi : i < input.length) :
    (streamBytes P rk input)[i]'(by simpa using hi) =
      input[i] ^^^ (cipher (counterBlock P rk (i / 16)) rk)[i % 16] := by
  simp [streamBytes]

/-- The same keystream added twice cancels. -/
theorem streamBytes_streamBytes (input : List Byte) : streamBytes P rk (streamBytes P rk input) = input := by
  apply List.ext_getElem
  · simp
  · intro i _ hi
    rw [streamBytes_getElem P rk (by simpa using hi), streamBytes_getElem P rk hi, BitVec.xor_assoc, BitVec.xor_self,
      BitVec.xor_zero]

end StreamFunction

/-- Settles O55: `streamBytes_streamBytes` and `length_streamBytes`. -/
theorem streamFunctionInvolutive : Obligations.StreamFunctionInvolutive :=
  fun P rk x => ⟨streamBytes_streamBytes P rk x, length_streamBytes P rk x⟩

section Pass

variable {P : Params} {pad : Nat → Byte} {rk : RoundKeys} {d : Direction} {input : List Byte} {u : Nat} {s : State}

/-! ## The bytes of one unit (42_stream_driver.md R171, R178, R189) -/

/-- The bytes of unit `u` of a stream: 16 of them, or what is left. -/
def unitSlice (x : List Byte) (u : Nat) : List Byte := (x.drop (16 * u)).take 16

/-- The bytes of the first `u + 1` units are those of the first `u`, then unit `u`. -/
theorem take_units_succ (x : List Byte) (u : Nat) : x.take (16 * (u + 1)) = x.take (16 * u) ++ unitSlice x u := by
  rw [Nat.mul_succ, List.take_add, unitSlice]

/-- A block that agrees with the stream on unit `u` holds that unit in its first bytes. -/
theorem take_toList_eq_unitSlice {b : Block} {x : List Byte} (u : Nat)
    (h : ∀ (j : Nat) (hj : j < 16) (hx : 16 * u + j < x.length), b[j] = x[16 * u + j]) :
    b.toList.take (min 16 (x.length - 16 * u)) = unitSlice x u := by
  apply List.ext_getElem
  · simp [unitSlice]
  · intro j hj hj'
    simp only [unitSlice, List.length_take, List.length_drop] at hj'
    simpa [unitSlice] using h j (by omega) (by omega)

theorem unitInput_getElem (pad : Nat → Byte) {j : Nat} (hj : j < 16) (hx : 16 * u + j < input.length) :
    (unitInput pad input u)[j] = input[16 * u + j] := by
  simp [unitInput, hx]

/-- The padding never reaches the stream. -/
theorem take_unitInput (pad : Nat → Byte) (input : List Byte) (u : Nat) :
    (unitInput pad input u).toList.take (min 16 (input.length - 16 * u)) = unitSlice input u :=
  take_toList_eq_unitSlice u fun _ hj hx => unitInput_getElem pad hj hx

/-- A unit's input under its keystream block is that unit of the stream function (R173). -/
theorem take_xorBytes_unitInput (P : Params) (pad : Nat → Byte) (rk : RoundKeys) (input : List Byte) (u : Nat) :
    (xorBytes (unitInput pad input u) (cipher (counterBlock P rk u) rk)).toList.take
      (min 16 (input.length - 16 * u)) = unitSlice (streamBytes P rk input) u := by
  rw [← length_streamBytes P rk input]
  refine take_toList_eq_unitSlice u fun j hj hx => ?_
  have hx' : 16 * u + j < input.length := by simpa using hx
  have hdiv : (16 * u + j) / 16 = u := by omega
  have hmod : (16 * u + j) % 16 = j := by omega
  rw [xorBytes_getElem, unitInput_getElem pad hj hx', streamBytes_getElem P rk hx']
  simp only [hdiv, hmod]

/-- The bytes the host keeps of a unit's output (R189). -/
theorem take_unitOutput (n : Nat) (din ks : Block) :
    (unitOutput n din ks).toList.take n = (xorBytes din ks).toList.take n := by
  apply List.ext_getElem
  · simp
  · intro j hj _
    have hn : j < n := by simp at hj; omega
    simp [unitOutput, xorBytes, hn]

/-- The bytes a unit absorbs are that unit of the plaintext, in either direction (R179). -/
theorem unitPlaintext_unitInput (P : Params) (pad : Nat → Byte) (rk : RoundKeys) (d : Direction) (input : List Byte)
    (u : Nat) :
    unitPlaintext d (min 16 (input.length - 16 * u)) (unitInput pad input u) (cipher (counterBlock P rk u) rk) =
      unitSlice (passPlaintext P rk d input) u := by
  cases d with
  | encrypt => exact take_unitInput pad input u
  | decrypt => exact take_xorBytes_unitInput P pad rk input u

/-! ## The state after `u` units of a pass (42_stream_driver.md R170 to R182) -/

/-- What a pass over `input` has done after its first `u` units: OFF, CTR and ACC are those of `16 * u` bytes (of all
the bytes once that is more), and the flags say whether bytes are left. -/
structure AfterUnits (P : Params) (rk : RoundKeys) (d : Direction) (input : List Byte) (u : Nat) (s : State) : Prop where
  len : s.len.toNat = input.length
  off : s.off.toNat = min (16 * u) input.length
  ctr : s.ctr = counterBlock P rk u
  acc : s.acc = ((passPlaintext P rk d input).take (16 * u)).foldl P.csumStep P.csumInit
  active : s.active = decide (16 * u < input.length)
  done : s.done = decide (input.length ≤ 16 * u)
  dir : s.dir = d
  rk : s.rk = rk

/-- STREAM_START leaves the state before the first unit (R174). -/
theorem afterUnits_streamStart (P : Params) (d : Direction) (hlen : s.len.toNat = input.length) :
    AfterUnits P s.rk d input 0 (streamStart P d s) := by
  have hzero : s.len = 0 ↔ input.length = 0 := by rw [← hlen]; bv_omega
  rw [streamStart_eq]
  exact {
    rk := rfl
    dir := rfl
    len := hlen
    off := by simp
    ctr := (counterBlock_zero P s.rk).symm
    acc := rfl
    active := decide_eq_decide.mpr (hzero.not.trans (by omega))
    done := decide_eq_decide.mpr (hzero.trans (by omega)) }

/-- Loading DIN is no part of what a pass has done. -/
theorem AfterUnits.set_din (h : AfterUnits P rk d input u s) (b : Block) :
    AfterUnits P rk d input u { s with din := b } :=
  { h with }

/-- With bytes left, a unit takes 16 of them or all (R178). -/
theorem AfterUnits.unitLen_eq (h : AfterUnits P rk d input u s) (hu : 16 * u < input.length) :
    unitLen s.len s.off = min 16 (input.length - 16 * u) := by
  rw [Machine.unitLen_eq (by rw [BitVec.le_def, h.len, h.off]; omega), h.len, h.off, Nat.min_eq_left hu.le]

/-- The host keeps unit `u` of the stream function from a STREAM_BLOCK on unit `u` of the input. -/
theorem AfterUnits.streamBlock_output (h : AfterUnits P rk d input u s) (hu : 16 * u < input.length)
    (hdin : s.din = unitInput pad input u) :
    (streamBlock P s).dout.toList.take (streamBlock P s).lastN.toNat = unitSlice (streamBytes P rk input) u := by
  rw [streamBlock_dout, streamBlock_lastN, toNat_ofNat_unitLen, take_unitOutput, h.unitLen_eq hu, hdin, h.ctr, h.rk,
    take_xorBytes_unitInput]

/-- A STREAM_BLOCK on unit `u` of the input leaves the state after `u + 1` units (R178, R179). -/
theorem AfterUnits.streamBlock (h : AfterUnits P rk d input u s) (hu : 16 * u < input.length)
    (hdin : s.din = unitInput pad input u) : AfterUnits P rk d input (u + 1) (streamBlock P s) := by
  have hle : s.off ≤ s.len := by rw [BitVec.le_def, h.len, h.off]; omega
  have hn := h.unitLen_eq hu
  have hoff : s.off.toNat + unitLen s.len s.off = min (16 * (u + 1)) input.length := by rw [h.off, hn]; omega
  have hend : advanceOff s.off (unitLen s.len s.off) = s.len ↔ input.length ≤ 16 * (u + 1) := by
    rw [advanceOff_eq_len_iff hle, hoff, h.len]; omega
  exact {
    rk := by rw [streamBlock_rk, h.rk]
    dir := by rw [streamBlock_dir, h.dir]
    len := by rw [streamBlock_len, h.len]
    off := by rw [streamBlock_off, (advanceOff_toNat hle).1, hoff]
    ctr := by rw [streamBlock_ctr, h.ctr, counterBlock_succ]
    acc := by
      rw [streamBlock_acc, h.acc, hn, h.dir, hdin, h.ctr, h.rk, unitPlaintext_unitInput, take_units_succ,
        List.foldl_append, absorbAll]
    active := by
      rw [streamBlock_active, h.active, decide_eq_true hu]
      simp only [hend]
      split <;> simp <;> omega
    done := by
      rw [streamBlock_done, h.done, decide_eq_false (Nat.not_le.mpr hu)]
      simp only [hend]
      split <;> simp <;> omega }

/-! ## A whole pass (42_stream_driver.md R182, R185) -/

theorem lt_unitCount_iff {l : Nat} : u < unitCount l ↔ 16 * u < l := by
  rw [unitCount]; omega

theorem le_mul_unitCount (l : Nat) : l ≤ 16 * unitCount l := by
  rw [unitCount]; omega

/-- `k` more units take the state after `u` units to that after `u + k`, and output `16 * k` bytes of the stream
function from byte `16 * u` on. -/
theorem AfterUnits.passUnits {k : Nat} (h : AfterUnits P rk d input u s) (hk : u + k ≤ unitCount input.length) :
    AfterUnits P rk d input (u + k) (passUnits P pad input k u s).1 ∧
      (passUnits P pad input k u s).2 = ((streamBytes P rk input).drop (16 * u)).take (16 * k) := by
  induction k generalizing u s with
  | zero => exact ⟨h, rfl⟩
  | succ k ih =>
    have hu : 16 * u < input.length := lt_unitCount_iff.mp (by omega)
    have hload := h.set_din (unitInput pad input u)
    obtain ⟨hstate, hout⟩ := ih (hload.streamBlock hu rfl) (by omega)
    rw [Machine.passUnits]
    refine ⟨by rwa [show u + (k + 1) = u + 1 + k by omega], ?_⟩
    dsimp only
    rw [hout, hload.streamBlock_output hu rfl, unitSlice, show 16 * (k + 1) = 16 + 16 * k by omega, List.take_add,
      List.drop_drop, Nat.mul_succ]

/-- A pass leaves the state after all its units and outputs the stream function of its input. -/
theorem afterUnits_runPass (P : Params) (pad : Nat → Byte) (d : Direction) (s : State) (hlen : input.length < 2 ^ 64) :
    AfterUnits P s.rk d input (unitCount input.length) (runPass P pad d input s).1 ∧
      (runPass P pad d input s).2 = streamBytes P s.rk input := by
  have hstart := afterUnits_streamStart (s := { s with len := BitVec.ofNat 64 input.length }) P d
    (by rw [BitVec.toNat_ofNat, Nat.mod_eq_of_lt hlen])
  obtain ⟨hstate, hout⟩ := hstart.passUnits (pad := pad) (k := unitCount input.length) (by omega)
  rw [Nat.zero_add] at hstate
  refine ⟨hstate, hout.trans ?_⟩
  rw [Nat.mul_zero, List.drop_zero, List.take_of_length_le (by simpa using le_mul_unitCount input.length)]

end Pass

theorem length_passPlaintext (P : Params) (rk : RoundKeys) (d : Direction) (input : List Byte) :
    (passPlaintext P rk d input).length = input.length := by
  cases d with
  | encrypt => rfl
  | decrypt => exact length_streamBytes P rk input

/-- Settles O54: the state after all the units, which cover the whole input. -/
theorem passComputesStream : Obligations.PassComputesStream := by
  intro P pad d input s hlen r
  obtain ⟨h, hout⟩ := afterUnits_runPass P pad d s hlen
  have hall := le_mul_unitCount input.length
  refine ⟨hout, ?_, ?_, ?_, ?_, h.len, h.ctr, ?_, h.rk, h.dir⟩
  · rw [hout, length_streamBytes]
  · rw [h.active, decide_eq_false (by omega)]
  · rw [h.done, decide_eq_true hall]
  · rw [← BitVec.toNat_inj, h.off, h.len, Nat.min_eq_right hall]
  · rw [h.acc, List.take_of_length_le (by rwa [length_passPlaintext])]

/-- Settles O56: the two passes have one keystream, which cancels, and one plaintext to absorb. -/
theorem passRoundTrip : Obligations.PassRoundTrip := by
  intro P pad pad' p s s' hlen hrk e d
  obtain ⟨hout, hlength, _, _, _, _, _, hacc, _⟩ := passComputesStream P pad .encrypt p s hlen
  obtain ⟨hout', _, _, _, _, _, _, hacc', _⟩ :=
    passComputesStream P pad' .decrypt e.2 s' (by rwa [hlength])
  have hplain : streamBytes P s'.rk e.2 = p := by rw [hrk, hout, streamBytes_streamBytes]
  refine ⟨hlength, hout'.trans hplain, ?_⟩
  rw [hacc', hacc]
  exact congrArg (List.foldl P.csumStep P.csumInit) hplain

end Sys2Proof.Machine

namespace Sys2Proof.Machine

/-! ## The checksum commands (43_checksum.md R200 to R205) -/

/-- A rotation by one bit: the top bit, carried round, fills the bit that doubling the other 31 leaves free (R9). -/
theorem toNat_rotl32_one (c : Word) : (rotl32 c 1).toNat = 2 * (c.toNat % 2 ^ 31) + c.toNat / 2 ^ 31 := by
  have htop : c.toNat / 2 ^ 31 < 2 ^ 1 := by omega
  calc
    (rotl32 c 1).toNat = (c.toNat % 2 ^ 31) <<< 1 ||| c.toNat / 2 ^ 31 := by
      rw [rotl32, BitVec.toNat_or, BitVec.toNat_shiftLeft, BitVec.toNat_ushiftRight, Nat.shiftRight_eq_div_pow]
      congr 1
      omega
    _ = 2 * (c.toNat % 2 ^ 31) + c.toNat / 2 ^ 31 := by
      rw [← Nat.shiftLeft_add_eq_or_of_lt htop, Nat.shiftLeft_eq, pow_one, Nat.mul_comm]

/-- The default step as arithmetic modulo 2^32 (R201). -/
theorem defaultCsumStep_eq_ofNat (c : Word) (b : Byte) :
    defaultCsumStep c b = BitVec.ofNat 32 (2 * (c.toNat % 2 ^ 31) + c.toNat / 2 ^ 31 + b.toNat) := by
  apply BitVec.eq_of_toNat_eq
  rw [defaultCsumStep, BitVec.toNat_add, toNat_rotl32_one, BitVec.toNat_setWidth_of_le (by decide), BitVec.toNat_ofNat]

/-- Settles O22: each command's equation, with the default step by `defaultCsumStep_eq_ofNat`. -/
theorem checksumCommandsEffect : Obligations.ChecksumCommandsEffect := by
  refine fun s b => ⟨exec_csumReset s, ?_⟩
  rw [← defaultCsumStep_eq_ofNat]
  exact exec_csumAbsorb b s

/-- CSUM_ABSORB of each byte in order absorbs them all into ACC and changes nothing else (R205). -/
theorem foldl_csumAbsorb (P : Params) (bytes : List Byte) (s : State) :
    bytes.foldl (fun t b => csumAbsorb P b t) s = { s with acc := absorbAll P s.acc bytes } := by
  induction bytes generalizing s with
  | nil => rfl
  | cons b bytes ih => exact ih (csumAbsorb P b s)

/-- Settles O23: `foldl_csumAbsorb` from the state that CSUM_RESET leaves. -/
theorem absorbsFold : Obligations.AbsorbsFold :=
  fun P bytes s => foldl_csumAbsorb P bytes (csumReset P s)

end Sys2Proof.Machine

namespace Sys2Proof.Machine

/-! ## The control commands (44_control.md R222, R224, R226) -/

/-- Settles O24: each command's equation; `clearErr` and `clearRecord params` are the two updates written out. -/
theorem controlCommandsEffect : Obligations.ControlCommandsEffect :=
  fun s => ⟨exec_nop s, exec_errClear s, exec_zeroize s⟩

end Sys2Proof.Machine

namespace Sys2Proof.Machine

/-! ## Steps that stop (60_exceptions.md R245, 70_reset_and_hazards.md R280, 20_memory.md R61) -/

/-- Settles O6: `step_of_corePerforms`, every command answering a next state. -/
theorem coreStepNeverFails : Obligations.CoreStepNeverFails :=
  fun s i hm hb hd => ⟨execState i (takeTurn s), exec_eq_next i _, step_of_corePerforms ⟨hm, hb, hd⟩⟩

/-- An access that reaches no register is one the port cannot express (R61). -/
theorem portAccess_eq_false_of_regAt {off size : Nat} (h : regAt off size = none) : portAccess off size = false := by
  rw [← Bool.not_eq_true, portAccess_iff]
  exact regAt_eq_none_iff.mp h

/-- A host statement answers a next state, or is refused for an access that the port cannot express. -/
theorem hostAct_next_or_refused (P : Params) (st : HostStmt) (s : State) :
    (∃ t, hostAct P st s = .next t) ∨ hostAct P st s = .refused .portAccess ∧ st.wellFormed = false := by
  cases st with
  | read off size =>
    cases hr : regAt off size with
    | some r => exact .inl ⟨_, by rw [hostAct, hr]⟩
    | none => exact .inr ⟨(hostAct_refused P s hr).1, portAccess_eq_false_of_regAt hr⟩
  | write off size v =>
    cases hr : regAt off size with
    | some r => exact .inl ⟨_, by rw [hostAct, hr]⟩
    | none => exact .inr ⟨(hostAct_refused P s hr).2 v, portAccess_eq_false_of_regAt hr⟩
  | wait => exact .inl ⟨_, rfl⟩
  | assertReset => exact .inl ⟨_, rfl⟩

/-- With the invariants a step answers a next state, or refuses the host's next statement for its access: a pending word is legal, so
the core step never faults. -/
theorem step_next_or_refused {s : State} (hi : Inv s) : (∃ t, step s = .next t) ∨
    step s = .refused .portAccess ∧ ∃ st rest, s.prog = st :: rest ∧ st.wellFormed = false := by
  cases hm : mover s with
  | core =>
    cases hb : s.busy with
    | true =>
      obtain ⟨i, hd, -⟩ := hi.pending hb
      exact .inl ⟨_, step_of_corePerforms ⟨hm, hb, hd⟩⟩
    | false => exact .inl ⟨_, step_of_turnPasses (.inl ⟨hm, hb⟩)⟩
  | host =>
    cases hp : s.prog with
    | nil => exact .inl ⟨_, step_of_turnPasses (.inr ⟨hm, hp⟩)⟩
    | cons st rest =>
      rw [step_of_prog_cons hm hp]
      rcases hostAct_next_or_refused params st { takeTurn s with prog := rest } with hnext | ⟨href, hst⟩
      · exact .inl hnext
      · exact .inr ⟨href, st, rest, rfl, hst⟩

/-- Settles O42: of the two answers that `step_next_or_refused` leaves, none is a fault. -/
theorem stepsStopOnlyAtBadAccess : Obligations.StepsStopOnlyAtBadAccess := by
  intro s hi
  rcases step_next_or_refused hi with ⟨t, ht⟩ | ⟨href, hbad⟩
  · simp [ht]
  · refine ⟨by simp [href], fun r hr => ⟨?_, hbad⟩⟩
    rw [href] at hr
    exact (Host.Outcome.refused.inj hr).symm

/-! ## Writes while BUSY = 1 (60_exceptions.md R246) -/

theorem regWrite_of_busy {s : State} (hb : s.busy = true) (r : Reg) (v : Word) :
    regWrite r v s = { s with err := if s.err = 0 then 5#4 else s.err } :=
  (if_pos hb).trans (raiseErr_eq .busy s)

/-- A host write is the register write, with the turn and the statement taken. -/
theorem step_write {s : State} {r : Reg} {v : Word} {rest : List HostStmt} (hm : mover s = .host)
    (hp : s.prog = wr r v :: rest) : step s = .next (regWrite r v { takeTurn s with prog := rest }) := by
  rw [step_of_prog_cons hm hp, wr, hostAct, regAt_regOffset]

/-- Settles O30: `regWrite_of_busy` in the host's step, and `step_read`. -/
theorem busyWritesIgnored : Obligations.BusyWritesIgnored := by
  refine fun s r v rest hb hm => ⟨fun hp => ?_, fun hp => ⟨_, step_read hm hp, rfl, hb, rfl⟩⟩
  rw [step_write hm hp, regWrite_of_busy (s := { takeTurn s with prog := rest }) hb]
  rfl

/-- Settles O46: of the host's statements a read and a poll change the host's side alone, and `regWrite_of_busy` says what a write
does. -/
theorem pendingCommandUndisturbed : Obligations.PendingCommandUndisturbed := by
  intro s t hb hm hreset h
  rcases step_cases h with rfl | ⟨hcore, -⟩ | ⟨-, st, rest, hp, hact⟩
  · exact ⟨rfl, .inl rfl⟩
  · cases hm.symm.trans hcore
  rcases hostAct_cases hact with ⟨off, size, r, -, -, rfl⟩ | ⟨off, size, v, r, -, -, rfl⟩ | ⟨-, rfl⟩ | ⟨rfl, -⟩
  · exact ⟨rfl, .inl rfl⟩
  · rw [regWrite_of_busy (s := { takeTurn s with prog := rest }) hb]
    refine ⟨rfl, ?_⟩
    by_cases herr : s.err = 0
    · exact .inr ⟨herr, if_pos herr⟩
    · exact .inl (if_neg herr)
  · exact ⟨rfl, .inl rfl⟩
  · exact absurd hp (hreset rest)

/-! ## Reports and the sticky hold (60_exceptions.md R243, R244) -/

theorem raiseErr_of_err_ne_zero {s : State} (h : s.err ≠ 0) (e : ErrCode) : raiseErr e s = s := if_neg h

/-- A register write reports an error, or leaves ERR. -/
theorem regWrite_eq_raiseErr_or_err_eq (r : Reg) (v : Word) (s : State) :
    (∃ e, regWrite r v s = raiseErr e s) ∨ (regWrite r v s).err = s.err := by
  rcases regWrite_cases r v s with ⟨-, h⟩ | ⟨-, h⟩ <;> rw [h]
  · exact .inl ⟨.busy, rfl⟩
  rcases idleWrite_cases r v s with h | h | ⟨k, -, h⟩ | ⟨k, -, h⟩ | ⟨-, -, l, h⟩ | ⟨-, i, -, -, h⟩
  · exact .inl h
  all_goals exact .inr (congrArg State.err h :)

/-- Settles O28: a write that changes ERR is a `raiseErr`, which keeps a first error. -/
theorem errorReportIsPrecise : Obligations.ErrorReportIsPrecise := by
  intro r v s
  rcases regWrite_eq_raiseErr_or_err_eq r v s with ⟨e, h⟩ | h
  · by_cases herr : s.err = 0
    · refine ⟨fun _ => ⟨herr, ?_⟩, fun hne => absurd herr hne⟩
      rw [h, raiseErr_eq]
    · rw [h, raiseErr_of_err_ne_zero herr]
      exact ⟨fun hne => absurd rfl hne, fun _ => rfl⟩
  · exact ⟨fun hne => absurd h hne, fun _ => h⟩

/-- A sticky error holds back every word but those of the commands that pass it, Illegal words included. -/
theorem commandWrite_of_held {v : Word} {s : State} (herr : s.err ≠ 0)
    (h : ∀ i, decode v = .ok i → passesStickyHold i = false) : commandWrite v s = s := by
  rw [commandWrite, if_pos herr]
  cases hd : decode v with
  | error e => rfl
  | ok i => simp [h i hd]

/-- A sticky error lets the words of NOP, ZEROIZE and ERR_CLEAR pass. -/
theorem commandWrite_of_passesStickyHold {v : Word} {i : Instr} {s : State} (hd : decode v = .ok i)
    (h : passesStickyHold i = true) : commandWrite v s = acceptCmd v s :=
  commandWrite_eq_acceptCmd hd (.inr h) (commandError_of_passesStickyHold h s)

/-- During a pass a LEN write only reports E_STATE (R249). -/
theorem lenWrite_of_active {s : State} (ha : s.active = true) (l : DWord) : lenWrite l s = raiseErr .state s := if_pos ha

/-- Settles O29: a CMD write by what the hold lets pass, a LEN write by its lock, KEY and DIN by their own rules. -/
theorem stickyHoldOnlyCommands : Obligations.StickyHoldOnlyCommands := by
  intro s v hb herr
  refine ⟨fun hheld => ?_, fun hpass => ?_, fun k => regWrite_key hb k v, fun k => regWrite_din hb k v,
    fun ha => ⟨regWrite_lenLo hb ha v, regWrite_lenHi hb ha v⟩, fun ha => ?_⟩
  · rw [regWrite_of_idle hb]
    refine commandWrite_of_held herr fun i hd => ?_
    rw [← Bool.not_eq_true, passesStickyHold_iff]
    simpa using hheld i hd
  · rw [regWrite_of_idle hb]
    rcases hpass with hd | hd | hd <;> exact commandWrite_of_passesStickyHold hd rfl
  · have hlen (l : DWord) : lenWrite l s = s := (lenWrite_of_active ha l).trans (raiseErr_of_err_ne_zero herr .state)
    rw [regWrite_of_idle hb, regWrite_of_idle hb]
    exact ⟨hlen _, hlen _⟩

end Sys2Proof.Machine

namespace Sys2Proof.Machine

/-! ## The error a command meets (60_exceptions.md R240, R242) -/

/-- The commands that an open pass rejects (R249). -/
def lockedByPass : Instr → Bool
  | .keyExpand | .blockEnc | .blockDec | .streamStart _ | .csumReset | .csumAbsorb _ => true
  | .nop | .streamBlock | .streamAbort | .zeroize | .errClear => false

/-- The commands that a missing schedule rejects (R248). -/
def needsSchedule : Instr → Bool
  | .blockEnc | .blockDec | .streamStart _ => true
  | .nop | .keyExpand | .streamBlock | .streamAbort | .csumReset | .csumAbsorb _ | .zeroize | .errClear => false

theorem lockedByPass_iff {i : Instr} : lockedByPass i = true ↔
    i = .keyExpand ∨ i = .blockEnc ∨ i = .blockDec ∨ (∃ d, i = .streamStart d) ∨ i = .csumReset ∨
      ∃ b, i = .csumAbsorb b := by
  cases i <;> simp [lockedByPass]

theorem needsSchedule_iff {i : Instr} :
    needsSchedule i = true ↔ i = .blockEnc ∨ i = .blockDec ∨ ∃ d, i = .streamStart d := by
  cases i <;> simp [needsSchedule]

/-- The condition a command meets, in the order of R242: the open pass, the pass that is missing, the schedule that is missing. -/
theorem commandError_eq (i : Instr) (s : State) : commandError i s =
    if s.active = true ∧ lockedByPass i = true then some .state
    else if s.active = false ∧ i = .streamBlock then (if s.done then some .overrun else some .state)
    else if s.kv = false ∧ needsSchedule i = true then some .noKey
    else none := by
  cases i with
  | keyExpand | csumReset | csumAbsorb _ => simp [commandError, needsNoPass, lockedByPass, needsSchedule]
  | blockEnc | blockDec | streamStart _ =>
    cases hk : s.kv <;> simp [commandError, needsNoPassAndKey, lockedByPass, needsSchedule, hk]
  | streamBlock => cases ha : s.active <;> simp [commandError, needsPass, lockedByPass, needsSchedule, ha]
  | nop | streamAbort | zeroize | errClear => simp [commandError, lockedByPass, needsSchedule]

theorem lockedByPass_of_needsSchedule {i : Instr} (h : needsSchedule i = true) : lockedByPass i = true := by
  obtain rfl | rfl | ⟨d, rfl⟩ := needsSchedule_iff.mp h <;> rfl

/-- Which error a command meets, and when. -/
theorem commandError_eq_some_iff {i : Instr} {s : State} {e : ErrCode} : commandError i s = some e ↔
    (s.active = true ∧ lockedByPass i = true ∧ .state = e) ∨
    (s.active = false ∧ i = .streamBlock ∧ (s.done = true ∧ .overrun = e ∨ s.done = false ∧ .state = e)) ∨
    (s.active = false ∧ s.kv = false ∧ needsSchedule i = true ∧ .noKey = e) := by
  have hlock := lockedByPass_of_needsSchedule (i := i)
  have hblock : needsSchedule .streamBlock = false := rfl
  rw [commandError_eq]
  split_ifs <;> grind

/-! ## The error a register write meets (60_exceptions.md R246, R249, R251) -/

/-- The error of a CMD write while BUSY = 0 and ERR = 0. -/
def wordError (v : Word) (s : State) : Option ErrCode :=
  match decode v with
  | .ok i => commandError i s
  | .error _ => some .illegal

/-- The error of a register write while BUSY = 0 and ERR = 0. -/
def idleWriteError (r : Reg) (v : Word) (s : State) : Option ErrCode :=
  match r with
  | .cmd => wordError v s
  | .lenLo | .lenHi => needsNoPass s
  | .status | .key _ | .din _ | .dout _ | .ctr _ | .csum | .offLo | .offHi | .reserved _ => none

/-- The error of a register write while ERR = 0. -/
def writeError (r : Reg) (v : Word) (s : State) : Option ErrCode :=
  if s.busy then some .busy else idleWriteError r v s

theorem commandWrite_eq_elim {s : State} (herr : s.err = 0) (v : Word) :
    commandWrite v s = (wordError v s).elim (acceptCmd v s) (raiseErr · s) := by
  rw [commandWrite, if_neg (not_not.mpr herr), wordError]
  cases decode v with
  | error e => rfl
  | ok i =>
    simp only [commandCheck]
    cases commandError i s <;> rfl

theorem lenWrite_eq_elim (l : DWord) (s : State) :
    lenWrite l s = (needsNoPass s).elim { s with len := l } (raiseErr · s) := by
  cases ha : s.active <;> simp [lenWrite, needsNoPass, ha]

theorem idleWrite_err_eq_elim {s : State} (herr : s.err = 0) (r : Reg) (v : Word) :
    (idleWrite r v s).err = (idleWriteError r v s).elim 0 errValue := by
  have hreport (o : Option ErrCode) (t : State) (ht : t.err = 0) :
      (o.elim t (raiseErr · s)).err = o.elim 0 errValue := by
    cases o <;> simp [ht, herr]
  cases r with
  | cmd => exact (congrArg State.err (commandWrite_eq_elim herr v)).trans (hreport _ _ herr)
  | lenLo | lenHi => exact (congrArg State.err (lenWrite_eq_elim _ s)).trans (hreport _ _ herr)
  | status | key _ | din _ | dout _ | ctr _ | csum | offLo | offHi | reserved _ => exact herr

/-- From ERR = 0 a register write leaves the code of the error it meets. -/
theorem regWrite_err_eq_elim {s : State} (herr : s.err = 0) (r : Reg) (v : Word) :
    (regWrite r v s).err = (writeError r v s).elim 0 errValue := by
  cases hb : s.busy with
  | true => simp [regWrite_of_busy hb, writeError, hb, herr, errValue]
  | false => simp [regWrite_of_idle hb, writeError, hb, idleWrite_err_eq_elim herr]

theorem errValue_injective : Function.Injective errValue := by
  intro a b
  cases a <;> cases b <;> decide

theorem regWrite_err_eq_errValue_iff {s : State} (herr : s.err = 0) {r : Reg} {v : Word} {e : ErrCode} :
    (regWrite r v s).err = errValue e ↔ writeError r v s = some e := by
  rw [regWrite_err_eq_elim herr]
  cases writeError r v s with
  | none => simpa using (errValue_bounds e).1.symm
  | some c => simp [errValue_injective.eq_iff]

theorem wordError_eq_some_iff {v : Word} {s : State} {e : ErrCode} : wordError v s = some e ↔
    (.illegal = e ∧ ∀ i, decode v ≠ .ok i) ∨ ∃ i, decode v = .ok i ∧ commandError i s = some e := by
  unfold wordError
  cases decode v <;> simp

theorem idleWriteError_eq_some_iff {r : Reg} {v : Word} {s : State} {e : ErrCode} : idleWriteError r v s = some e ↔
    r = .cmd ∧ wordError v s = some e ∨ (r = .lenLo ∨ r = .lenHi) ∧ s.active = true ∧ .state = e := by
  cases r <;> simp [idleWriteError, needsNoPass]

theorem writeError_eq_some_iff {r : Reg} {v : Word} {s : State} {e : ErrCode} : writeError r v s = some e ↔
    (s.busy = true ∧ .busy = e) ∨ (s.busy = false ∧ idleWriteError r v s = some e) := by
  cases hb : s.busy <;> simp [writeError, hb]

/-- Settles O27: a code is left exactly by its own error, and each error is met exactly in its cases. -/
theorem errorCausesExact : Obligations.ErrorCausesExact := by
  unfold Obligations.ErrorCausesExact
  simp only [← lockedByPass_iff, ← needsSchedule_iff]
  intro r v s herr
  have hcode (e : ErrCode) : (regWrite r v s).err = errValue e ↔ _ :=
    (regWrite_err_eq_errValue_iff herr).trans writeError_eq_some_iff
  simp only [idleWriteError_eq_some_iff, wordError_eq_some_iff, commandError_eq_some_iff] at hcode
  refine ⟨(hcode .busy).trans ?_, (hcode .illegal).trans ?_, (hcode .overrun).trans ?_, (hcode .state).trans ?_,
    (hcode .noKey).trans ?_, ?_⟩
  · simp
  · simp
  · simp
  · simp [and_or_left, exists_or, or_assoc, and_assoc, and_comm, and_left_comm]
  · simp [and_left_comm]
  · rw [regWrite_err_eq_elim herr]
    cases writeError r v s with
    | none => simp
    | some e => exact (errValue_bounds e).2

end Sys2Proof.Machine

namespace Sys2Proof.Machine

/-! ## Command words by R85's match and mask (30_encoding.md R85, 60_exceptions.md R242) -/

theorem forall_matchesWord_eq_false_iff {v : Word} :
    (∀ r ∈ opcodeMap, r.matchesWord v = false) ↔ ∀ i, decode v ≠ .ok i := by
  have h := not_congr (decodesExactlyOneRow.1 v)
  simpa using h.symm

section OneCommand

variable {v : Word} {i : Instr} (hd : decode v = .ok i)
include hd

theorem eq_encode_iff_of_decode (j : Instr) : v = encode j ↔ i = j := by
  constructor
  · rintro rfl
    exact Except.ok.inj (hd.symm.trans (decode_encode j))
  · rintro rfl
    exact (encode_of_decode hd).symm

/-- A word matches exactly the row of the instruction it decodes to. -/
theorem and_mask_eq_pattern_iff (j : Instr) :
    v &&& (instrRow j).mask = (instrRow j).pattern ↔ instrRow i = instrRow j := by
  rw [← beq_iff_eq, ← OpcodeRow.matchesWord]
  constructor
  · intro h
    obtain ⟨k, hk, hrow⟩ := exists_decode_of_matchesWord (instrRow_mem j) h
    rwa [Except.ok.inj (hd.symm.trans hk)]
  · intro hrow
    exact hrow ▸ matchesWord_of_decode hd

theorem and_mask_eq_streamStart_iff : v &&& 0xFFFFFEFF#32 = 0x00000004#32 ↔ ∃ d, i = .streamStart d :=
  (and_mask_eq_pattern_iff hd (.streamStart .encrypt)).trans (by cases i <;> simp [instrRow, Instr.mnemonic])

theorem and_mask_eq_csumAbsorb_iff : v &&& 0xFF00FFFF#32 = 0x00000008#32 ↔ ∃ b, i = .csumAbsorb b :=
  (and_mask_eq_pattern_iff hd (.csumAbsorb 0)).trans (by cases i <;> simp [instrRow, Instr.mnemonic])

theorem lockedByPass_iff_word : lockedByPass i = true ↔
    v = 0x00000001#32 ∨ v = 0x00000002#32 ∨ v = 0x00000003#32 ∨ v &&& 0xFFFFFEFF#32 = 0x00000004#32 ∨
      v = 0x00000007#32 ∨ v &&& 0xFF00FFFF#32 = 0x00000008#32 := by
  have hword := eq_encode_iff_of_decode hd
  rw [lockedByPass_iff, and_mask_eq_streamStart_iff hd, and_mask_eq_csumAbsorb_iff hd, ← hword .keyExpand,
    ← hword .blockEnc, ← hword .blockDec, ← hword .csumReset]
  rfl

theorem needsSchedule_iff_word : needsSchedule i = true ↔
    v = 0x00000002#32 ∨ v = 0x00000003#32 ∨ v &&& 0xFFFFFEFF#32 = 0x00000004#32 := by
  have hword := eq_encode_iff_of_decode hd
  rw [needsSchedule_iff, and_mask_eq_streamStart_iff hd, ← hword .blockEnc, ← hword .blockDec]
  rfl

end OneCommand

/-! ## The outcome of a CMD write (60_exceptions.md R240, R242) -/

/-- While ERR is not 0, the words of the three commands that pass the hold are accepted, and any other changes nothing. -/
theorem commandWrite_of_err_ne_zero {s : State} (herr : s.err ≠ 0) (v : Word) : commandWrite v s =
    if v = 0x00000000#32 ∨ v = 0x00000009#32 ∨ v = 0x0000000A#32 then acceptCmd v s else s := by
  split_ifs with hv
  · rcases hv with rfl | rfl | rfl
    · exact commandWrite_of_passesStickyHold (decode_encode .nop) rfl
    · exact commandWrite_of_passesStickyHold (decode_encode .zeroize) rfl
    · exact commandWrite_of_passesStickyHold (decode_encode .errClear) rfl
  · refine commandWrite_of_held herr fun i hd => ?_
    rw [← Bool.not_eq_true, passesStickyHold_iff]
    rintro (rfl | rfl | rfl) <;> simp [← encode_of_decode hd, encode] at hv

/-- Settles O26: BUSY, then the sticky hold, then decoding, then the conditions of `commandError_eq` in the words of R85. -/
theorem commandWriteOutcome : Obligations.CommandWriteOutcome := by
  intro v s
  by_cases hb : s.busy = true
  · rw [if_pos hb, regWrite_of_busy hb]
    split_ifs <;> rfl
  rw [if_neg hb, regWrite_of_idle (by simpa using hb), idleWrite]
  by_cases herr : s.err ≠ 0
  · rw [if_pos herr, commandWrite_of_err_ne_zero herr]
    rfl
  rw [if_neg herr]
  have hzero : s.err = 0 := not_not.mp herr
  have hraise (e : ErrCode) : raiseErr e s = { s with err := errValue e } := if_pos hzero
  rw [commandWrite_eq_elim hzero, wordError]
  cases hd : decode v with
  | error e =>
    rw [if_pos (forall_matchesWord_eq_false_iff.mpr (by simp [hd]))]
    exact hraise .illegal
  | ok i =>
    rw [if_neg (mt forall_matchesWord_eq_false_iff.mp (by simp [hd]))]
    have hblock : i = .streamBlock ↔ v = 0x00000005#32 := (eq_encode_iff_of_decode hd .streamBlock).symm
    simp only [commandError_eq, lockedByPass_iff_word hd, needsSchedule_iff_word hd, hblock]
    split_ifs
    · exact hraise .state
    · exact hraise .overrun
    · exact hraise .state
    · exact hraise .noKey
    · rfl

end Sys2Proof.Machine

namespace Sys2Proof.Machine

/-! ## Reset and the pending command's step (70_reset_and_hazards.md R270, R280, R281) -/

theorem decode_of_decodeTableWord {nbits w : Nat} {i : Instr} (h : decodeTableWord nbits w = some i) :
    decode (tableWord nbits w) = .ok i := by
  rw [decodeTableWord] at h
  split_ifs at h with hn
  cases hd : decode (tableWord nbits w) with
  | error e => rw [hd] at h; cases h
  | ok j => rw [hd] at h; injection h with h; rw [h]

/-- The next step after `withFetchWord` is the core step of its word (log 2). -/
theorem corePerforms_withFetchWord (s : State) {nbits w : Nat} {i : Instr} (h : decodeTableWord nbits w = some i) :
    corePerforms i (s.withFetchWord nbits w) :=
  ⟨mover_cons (withFetchWord_sched s nbits w), withFetchWord_busy s nbits w, decode_of_decodeTableWord h⟩

/-- The turn that `withFetchWord` puts on the schedule is the one its step takes. -/
theorem takeTurn_withFetchWord (s : State) (nbits w : Nat) :
    takeTurn (s.withFetchWord nbits w) = { s with pend := tableWord nbits w, busy := true } := rfl

/-- Settles O5: the core step's equation, for every pending command and then for the one `withFetchWord` places. -/
theorem stepPerformsPendingCommand : Obligations.StepPerformsPendingCommand := by
  refine ⟨fun s i hm hb hd => ?_, fun s nbits w i hw => ?_⟩
  · obtain ⟨t, hexec, hstep⟩ := coreStepNeverFails s i hm hb hd
    rw [hexec]
    exact hstep
  · rw [step_of_corePerforms (corePerforms_withFetchWord s hw), takeTurn_withFetchWord, exec_eq_next]
    rfl

/-- Settles O48: the host's reset statement has no condition on the state, and `resetInput` sets every field of R20. -/
theorem resetFromAnyState : Obligations.ResetFromAnyState := by
  intro s rest hm hp
  calc step s = hostAct params .assertReset { takeTurn s with prog := rest } := step_of_prog_cons hm hp
    _ = .next (resetInput params { takeTurn s with prog := rest }) := rfl
    _ = .next { State.reset with prog := rest, sched := s.sched.tail, seen := s.seen } := rfl

end Sys2Proof.Machine
